-- ==== Sys2Proof/Config.lean ====
section
/-!
DEFINITION. What is fixed when a model is composed: the implementation parameter `ALU_IMPL`
(00_scope.md R10, 92_eei_decisions.md D22). The spec decides every other parameter (00_scope.md R9).
There is no free value: the spec's own value `U` of a flag stands for what it leaves undefined
(00_scope.md R14; log 6).
-/

namespace Sys2Proof

/-- `ALU_IMPL` ∈ {local, reference} (00_scope.md R10). -/
inductive AluImpl where
  /-- The meanings this spec gives. -/
  | localImpl
  /-- The external reference, whose behaviour no source gives: every request is refused. -/
  | referenceImpl
  deriving DecidableEq, Repr

/-- The implementation composed into the machine that `State.reset` describes.
DESIGN CHOICE (log 5, unsafe for a machine composed with the reference). -/
def Config.composedImpl : AluImpl := .localImpl

end Sys2Proof
end

