-- ==== Sys2Proof/Word.lean ====
section
/-!
DEFINITION. The bit vectors of the block's ports and of its 32-bit datapath, the three operand
widths, and the request a host puts on the input ports. Bit 0 is the least significant bit of every
value (00_scope.md R11).
-/

namespace Sys2Proof

/-- A value of the host width, the 32-bit datapath (00_scope.md R9, `HOST_WIDTH`). -/
abbrev Word := BitVec 32

/-- A value of the SRC, DEST and RESULT ports (00_scope.md R9, `PORT_WIDTH`). -/
abbrev Port := BitVec 64

/-- The legal operand widths (00_scope.md R9 `WIDTHS`, 30_encoding.md R65). -/
inductive Width where
  | w8
  | w16
  | w32
  deriving DecidableEq, Repr

/-- The number of bits w of a width. -/
def Width.bits : Width → Nat
  | .w8 => 8
  | .w16 => 16
  | .w32 => 32

/-- One request: the control word and the two operand values (10_state.md R30, 30_encoding.md R59). -/
structure Request where
  cw : BitVec 16
  src : Port
  dest : Port
  deriving DecidableEq, Repr

end Sys2Proof
end

