-- ==== Sys2Proof/Syntax.lean ====
section
/-!
DEFINITION. The seventeen operations (00_scope.md R3) in the spec's call notation `op(src, dest, w)`
(30_encoding.md R75). `src` and `dest` are the values on the two operand ports; `width` is the WIDTH
field of the control word, the number itself, so that a width outside 8, 16, 32 stays expressible and
faults (30_encoding.md R61; log 7).
-/

namespace Sys2Proof

/-- One operation with its operands: one constructor per row of opcode_table.json. -/
inductive Instr where
  /-- w-bit addition (41_add_sub.md R106). -/
  | add (src dest : Port) (width : BitVec 6)
  /-- w-bit addition with the incoming carry (41_add_sub.md R107). -/
  | adc (src dest : Port) (width : BitVec 6)
  /-- w-bit subtraction dest − src (41_add_sub.md R108). -/
  | sub (src dest : Port) (width : BitVec 6)
  /-- w-bit subtraction with the incoming borrow (41_add_sub.md R109). -/
  | sbb (src dest : Port) (width : BitVec 6)
  /-- unsigned widening multiplication (42_mul_div.md R111). -/
  | mul (src dest : Port) (width : BitVec 6)
  /-- signed widening multiplication (42_mul_div.md R112). -/
  | imul (src dest : Port) (width : BitVec 6)
  /-- unsigned truncating division dest / src (42_mul_div.md R113). -/
  | div (src dest : Port) (width : BitVec 6)
  /-- signed truncating division dest / src (42_mul_div.md R114). -/
  | idiv (src dest : Port) (width : BitVec 6)
  /-- unsigned remainder dest % src; `width` is carried and ignored (42_mul_div.md R115). -/
  | mod (src dest : Port) (width : BitVec 6)
  /-- signed remainder dest % src; `width` is carried and ignored (42_mul_div.md R116). -/
  | imod (src dest : Port) (width : BitVec 6)
  /-- bitwise and (43_logic.md R119). -/
  | and (src dest : Port) (width : BitVec 6)
  /-- bitwise inclusive or (43_logic.md R120). -/
  | or (src dest : Port) (width : BitVec 6)
  /-- bitwise exclusive or (43_logic.md R121). -/
  | xor (src dest : Port) (width : BitVec 6)
  /-- logical shift left, `src` the count (44_shift.md R124). -/
  | shl (src dest : Port) (width : BitVec 6)
  /-- logical shift right, `src` the count (44_shift.md R125). -/
  | shr (src dest : Port) (width : BitVec 6)
  /-- arithmetic shift right, `src` the count (44_shift.md R126). -/
  | sar (src dest : Port) (width : BitVec 6)
  /-- arithmetic shift left, identical to shl, with a code of its own (44_shift.md R127). -/
  | sal (src dest : Port) (width : BitVec 6)
  deriving DecidableEq, Repr

end Sys2Proof
end

