-- ==== Sys2Proof/WellFormed.lean ====
section
/-!
DEFINITION. Which operations are well formed: the WIDTH field is 8, 16 or 32 for every operation
except mod and imod, which take no width (30_encoding.md R65, R66).
-/

namespace Sys2Proof

/-- The legal values of the WIDTH field (30_encoding.md R65). -/
def legalWidth (width : BitVec 6) : Bool :=
  width == 8#6 || width == 16#6 || width == 32#6

/-- The WIDTH check of an operation. -/
def Instr.wellFormed : Instr → Bool
  | .add _ _ width => legalWidth width
  | .adc _ _ width => legalWidth width
  | .sub _ _ width => legalWidth width
  | .sbb _ _ width => legalWidth width
  | .mul _ _ width => legalWidth width
  | .imul _ _ width => legalWidth width
  | .div _ _ width => legalWidth width
  | .idiv _ _ width => legalWidth width
  | .mod _ _ _ => true
  | .imod _ _ _ => true
  | .and _ _ width => legalWidth width
  | .or _ _ width => legalWidth width
  | .xor _ _ width => legalWidth width
  | .shl _ _ width => legalWidth width
  | .shr _ _ width => legalWidth width
  | .sar _ _ width => legalWidth width
  | .sal _ _ width => legalWidth width

end Sys2Proof
end

