-- ==== Sys2Proof/Decode.lean ====
section
/-!
DEFINITION. Reading a request (30_encoding.md R59 to R66, R72) and writing one. The decoder is total:
it answers an operation or the name of what is wrong with the control word. The checks that need more
than the OP and RSV fields (InvalidWidth, UndefinedFlagRead) are made by the operation's meaning, in
the order of 30_encoding.md R72 (log 7).
-/

namespace Sys2Proof

/-- Why a control word names no operation. -/
inductive DecodeError where
  /-- RSV is not 0 (30_encoding.md R62). -/
  | reservedControlBits
  /-- OP is 17 to 31 (30_encoding.md R64). -/
  | illegalOp
  deriving DecidableEq, Repr

/-- `OP = CW[4:0]` (30_encoding.md R60). -/
def cwOp (cw : BitVec 16) : BitVec 5 := cw.extractLsb' 0 5

/-- `WIDTH = CW[10:5]` (30_encoding.md R61). -/
def cwWidth (cw : BitVec 16) : BitVec 6 := cw.extractLsb' 5 6

/-- `RSV = CW[15:11]` (30_encoding.md R62). -/
def cwRsv (cw : BitVec 16) : BitVec 5 := cw.extractLsb' 11 5

/-- The width a WIDTH field selects, none outside 8, 16, 32 (30_encoding.md R65). -/
def Width.ofField (width : BitVec 6) : Option Width :=
  if width = 8#6 then some .w8
  else if width = 16#6 then some .w16
  else if width = 32#6 then some .w32
  else none

/-- The WIDTH field that carries a width: the number itself (30_encoding.md R61). -/
def Width.field (w : Width) : BitVec 6 := BitVec.ofNat 6 w.bits

/-- The operation an OP code selects (30_encoding.md R63, R64). -/
def decodeOp (op : BitVec 5) (src dest : Port) (width : BitVec 6) : Except DecodeError Instr :=
  match op.toNat with
  | 0 => .ok (.add src dest width)
  | 1 => .ok (.adc src dest width)
  | 2 => .ok (.sub src dest width)
  | 3 => .ok (.sbb src dest width)
  | 4 => .ok (.mul src dest width)
  | 5 => .ok (.imul src dest width)
  | 6 => .ok (.div src dest width)
  | 7 => .ok (.idiv src dest width)
  | 8 => .ok (.mod src dest width)
  | 9 => .ok (.imod src dest width)
  | 10 => .ok (.and src dest width)
  | 11 => .ok (.or src dest width)
  | 12 => .ok (.xor src dest width)
  | 13 => .ok (.shl src dest width)
  | 14 => .ok (.shr src dest width)
  | 15 => .ok (.sar src dest width)
  | 16 => .ok (.sal src dest width)
  | _ => .error .illegalOp

/-- The decoder: the reserved bits first, then the operation code (30_encoding.md R72). -/
def decode (r : Request) : Except DecodeError Instr :=
  if cwRsv r.cw = 0#5 then decodeOp (cwOp r.cw) r.src r.dest (cwWidth r.cw)
  else .error .reservedControlBits

/-- The control word `CW = (WIDTH << 5) | OP` with `RSV = 0` (30_encoding.md R59, R63). -/
def controlWord (width : BitVec 6) (op : BitVec 5) : BitVec 16 :=
  width.setWidth 16 <<< 5 ||| op.setWidth 16

/-- The request that carries an operation (30_encoding.md R59, R63). -/
def encode : Instr → Request
  | .add src dest width => ⟨controlWord width 0#5, src, dest⟩
  | .adc src dest width => ⟨controlWord width 1#5, src, dest⟩
  | .sub src dest width => ⟨controlWord width 2#5, src, dest⟩
  | .sbb src dest width => ⟨controlWord width 3#5, src, dest⟩
  | .mul src dest width => ⟨controlWord width 4#5, src, dest⟩
  | .imul src dest width => ⟨controlWord width 5#5, src, dest⟩
  | .div src dest width => ⟨controlWord width 6#5, src, dest⟩
  | .idiv src dest width => ⟨controlWord width 7#5, src, dest⟩
  | .mod src dest width => ⟨controlWord width 8#5, src, dest⟩
  | .imod src dest width => ⟨controlWord width 9#5, src, dest⟩
  | .and src dest width => ⟨controlWord width 10#5, src, dest⟩
  | .or src dest width => ⟨controlWord width 11#5, src, dest⟩
  | .xor src dest width => ⟨controlWord width 12#5, src, dest⟩
  | .shl src dest width => ⟨controlWord width 13#5, src, dest⟩
  | .shr src dest width => ⟨controlWord width 14#5, src, dest⟩
  | .sar src dest width => ⟨controlWord width 15#5, src, dest⟩
  | .sal src dest width => ⟨controlWord width 16#5, src, dest⟩

/-- The request whose bits are `w`, cut to `nbits`: CW in bits 15..0, then SRC in bits 79..16 and DEST
in bits 143..80; a table word of 16 bits leaves both operands 0 (DESIGN CHOICE, log 8, safe). -/
def Request.ofTableWord (nbits w : Nat) : Request :=
  let v := w % 2 ^ nbits
  ⟨BitVec.ofNat 16 v, BitVec.ofNat 64 (v / 2 ^ 16), BitVec.ofNat 64 (v / 2 ^ 80)⟩

/-- What the decoder reads from a word of opcode_table.json. -/
def decodeTableWord (nbits w : Nat) : Option Instr :=
  (decode (Request.ofTableWord nbits w)).toOption

end Sys2Proof
end

