-- ==== Sys2Proof/Machine/State.lean ====
section
/-!
DEFINITION. The state of the block as plain data: the flags register F, the fault record FAULTS, the
answer to the last request, the composed implementation, and the host's moves still to come. The
block has no memory, program counter or general register (10_state.md R34 to R39, 20_memory.md R46).
-/

namespace Sys2Proof.Machine

open Sys2Proof

/-- The value of one flag: 0, 1 or `U`, undefined (00_scope.md R14). -/
inductive Flag where
  | zero
  | one
  /-- `U`: no rule has given the flag a value; a host must treat it as any value (log 6, safe). -/
  | undef
  deriving DecidableEq, Repr

/-- The flags register F (10_state.md R21). -/
structure Flags where
  /-- CF, carry (10_state.md R22). -/
  cf : Flag
  /-- PF, parity (10_state.md R23). -/
  pf : Flag
  /-- ZF, zero (10_state.md R24). -/
  zf : Flag
  /-- SF, sign (10_state.md R25). -/
  sf : Flag
  /-- OF, overflow (10_state.md R26). -/
  of : Flag
  deriving DecidableEq, Repr

/-- The faults a request can raise (60_exceptions.md R130). A fault does not stop the block: it is a
next state that shows the fault on the FAULT port and in FAULTS (60_exceptions.md R129, R142; log 1),
so `step` never answers `Host.Outcome.fault`. -/
inductive Fault where
  /-- Raised by the decoder when `CW[15:11] ≠ 0` (R131). Safe: the source cannot express the request. -/
  | reservedControlBits
  /-- Raised by the decoder when `CW[4:0] > 16` (R132). Safe: the code has no meaning in the source. -/
  | illegalOp
  /-- Raised by every operation but mod and imod when WIDTH is not 8, 16 or 32 (R133). Safe. -/
  | invalidWidth
  /-- Raised by adc and sbb when `F.CF = U` (R134). Safe. -/
  | undefinedFlagRead
  /-- Raised by div, idiv, mod, imod when `SRC = 0` (R135). Safe. -/
  | divideByZero
  /-- Raised by idiv and imod on the most negative dividend and the divisor −1 (R136). Safe. -/
  | divideOverflow
  deriving DecidableEq, Repr

/-- Why a request has no meaning. -/
inductive Refusal where
  /-- An arm of `exec` not modelled yet; no arm answers it. Safe. -/
  | notModelled (mnemonic : String)
  /-- Raised by every request when `ALU_IMPL = reference` (00_scope.md R10, 60_exceptions.md R143):
  the reference's behaviour is in no source. Safe. -/
  | referenceImplementation
  deriving DecidableEq, Repr

/-- What the block answered to the last request: the RESULT and FAULT ports (10_state.md R31 to R33). -/
inductive Response where
  /-- No request has been performed since reset (DESIGN CHOICE, log 4). -/
  | none
  /-- Success, `FAULT = 0`, with RESULT. -/
  | ok (result : Port)
  /-- A fault, `FAULT ≠ 0`, with no RESULT at all (10_state.md R33). -/
  | fault (f : Fault)
  deriving DecidableEq, Repr

/-- One use of the host flag-write port: each flag left alone or set to 0 or 1, never to `U`
(10_state.md R43). -/
structure FlagWrite where
  cf : Option Bool
  pf : Option Bool
  zf : Option Bool
  sf : Option Bool
  of : Option Bool
  deriving DecidableEq, Repr

/-- What the host can do to the block (10_state.md R43, R44). -/
inductive HostMove where
  /-- Issue one request. -/
  | request (r : Request)
  /-- Write flags between two requests. -/
  | writeFlags (w : FlagWrite)
  deriving DecidableEq, Repr

/-- The state of one block in one processor context (10_state.md R41). -/
structure State where
  /-- The flags register F (10_state.md R21). -/
  flags : Flags
  /-- FAULTS, the fault record, oldest first (10_state.md R40, 60_exceptions.md R140). -/
  faults : List Fault
  /-- The answer to the last request (10_state.md R31 to R33, R45). -/
  response : Response
  /-- `ALU_IMPL`, fixed when the model is composed (00_scope.md R10, 70_reset_and_hazards.md R151). -/
  impl : AluImpl
  /-- The host's moves still to come, the next one first (10_state.md R44, 20_memory.md R54; log 2). -/
  pending : List HostMove
  deriving DecidableEq, Repr

/-- The block right after reset: every flag `U` (70_reset_and_hazards.md R148), FAULTS empty and no
request in progress (R149); no answer yet (log 4) and the composed implementation (log 5). -/
def State.reset : State where
  flags := ⟨.undef, .undef, .undef, .undef, .undef⟩
  faults := []
  response := .none
  impl := Config.composedImpl
  pending := []

end Sys2Proof.Machine
end

