-- ==== Sys2Proof/Machine/Operands.lean ====
section
/-!
DEFINITION. The width_mask_unit and the carry_propagator (40_units.md R79 to R84), how an operation
reads its operand ports (30_encoding.md R67 to R70) and how a result is assembled (30_encoding.md R71).
-/

namespace Sys2Proof.Machine

open Sys2Proof

/-- `2^w − 1` (40_units.md R79). -/
def widthMask (w : Width) : Word := BitVec.ofNat 32 (2 ^ w.bits - 1)

/-- `mask(v, w) = v & (2^w − 1)` (40_units.md R79). -/
def mask (v : Word) (w : Width) : Word := v &&& widthMask w

/-- `sx(v, w)`, the sign-extended view (40_units.md R81). -/
def sx (v : Word) (w : Width) : Word :=
  if v.getLsbD (w.bits - 1) then mask v w ||| ~~~(widthMask w) else mask v w

/-- `sign(v) = v[31]` (40_units.md R82). -/
def sign (v : Word) : Bool := v.getLsbD 31

/-- `CP(a, b, cin)`, the 32-bit adder with carry-in (40_units.md R84). -/
def carryPropagator (a b : Word) (cin : Bool) : Word := a + b + (BitVec.ofBool cin).setWidth 32

/-- `s = SRC[31:0]`, `d = DEST[31:0]` (30_encoding.md R67). -/
def operand (p : Port) : Word := p.extractLsb' 0 32

/-- The shift count `n = SRC[4:0]`, 0 to 31 (30_encoding.md R69, 44_shift.md R123). -/
def shiftCount (src : Port) : Nat := (src.extractLsb' 0 5).toNat

/-- `zext_64(v)` of a 32-bit value (30_encoding.md R71). -/
def resultHost (v : Word) : Port := v.setWidth 64

/-- `zext_64(mask(r, w))` (30_encoding.md R71). -/
def resultMasked (r : Word) (w : Width) : Port := resultHost (mask r w)

/-- `zext_64(v[w-1:0])`, an operand read as an unsigned w-bit number (42_mul_div.md R111). -/
def unsignedOperand (v : Word) (w : Width) : Port := (mask v w).setWidth 64

/-- `sext_64(v[w-1:0])`, an operand read as a two's-complement w-bit number (42_mul_div.md R112). -/
def signedOperand (v : Word) (w : Width) : Port := (v.setWidth w.bits).signExtend 64

end Sys2Proof.Machine
end

