-- ==== Sys2Proof/Machine/Ops.lean ====
section
/-!
DEFINITION. The shared operations over State: how a request ends (with a result or with a fault), the
checks a meaning makes before it computes, the host's flag write, and the output ports.
-/

namespace Sys2Proof.Machine

open Sys2Proof

/-- The flag value of a computed bit. -/
def Flag.ofBool (b : Bool) : Flag := if b then .one else .zero

/-- The state after a request that succeeds: RESULT, and all its flag writes together (00_scope.md R16,
10_state.md R42). -/
def State.afterResult (s : State) (F : Flags) (result : Port) : State :=
  { s with flags := F, response := .ok result }

/-- The state after a request that faults: FAULT shows the fault, RESULT carries nothing, every flag
keeps its value and the fault is appended to FAULTS (60_exceptions.md R129, R140; 10_state.md R33). -/
def State.afterFault (s : State) (f : Fault) : State :=
  { s with faults := s.faults ++ [f], response := .fault f }

/-- A request succeeds. -/
def complete (F : Flags) (result : Port) (s : State) : Host.Outcome State Fault Refusal :=
  .next (s.afterResult F result)

/-- A request faults: the block goes on to the next request (60_exceptions.md R142; log 1). -/
def raiseFault (f : Fault) (s : State) : Host.Outcome State Fault Refusal :=
  .next (s.afterFault f)

/-- The width check: InvalidWidth when WIDTH is not 8, 16 or 32 (30_encoding.md R72, 60_exceptions.md R133). -/
def withWidth (width : BitVec 6) (s : State)
    (body : Width → Host.Outcome State Fault Refusal) : Host.Outcome State Fault Refusal :=
  match Width.ofField width with
  | some w => body w
  | none => raiseFault .invalidWidth s

/-- The incoming carry of adc and sbb: UndefinedFlagRead when `F.CF = U` (30_encoding.md R72,
60_exceptions.md R134). -/
def withCarry (s : State)
    (body : Bool → Host.Outcome State Fault Refusal) : Host.Outcome State Fault Refusal :=
  match s.flags.cf with
  | .zero => body false
  | .one => body true
  | .undef => raiseFault .undefinedFlagRead s

/-- The divisor check of div, idiv, mod and imod: DivideByZero when `SRC = 0` (60_exceptions.md R135). -/
def withDivisor (src : Port) (s : State)
    (body : Host.Outcome State Fault Refusal) : Host.Outcome State Fault Refusal :=
  if src = 0#64 then raiseFault .divideByZero s else body

/-- The overflow check of idiv and imod: DivideOverflow on the most negative dividend and the divisor
−1 (60_exceptions.md R136). -/
def withSignedQuotient (src dest : Port) (s : State)
    (body : Host.Outcome State Fault Refusal) : Host.Outcome State Fault Refusal :=
  if dest = 0x8000000000000000#64 ∧ src = 0xFFFFFFFFFFFFFFFF#64 then raiseFault .divideOverflow s
  else body

/-- The fault a control word without an operation raises (60_exceptions.md R131, R132). -/
def Fault.ofDecodeError : DecodeError → Fault
  | .reservedControlBits => .reservedControlBits
  | .illegalOp => .illegalOp

/-- The code of a fault on the FAULT port (60_exceptions.md R130). -/
def Fault.code : Fault → BitVec 3
  | .reservedControlBits => 1#3
  | .illegalOp => 2#3
  | .invalidWidth => 3#3
  | .undefinedFlagRead => 4#3
  | .divideByZero => 5#3
  | .divideOverflow => 6#3

/-- `FAULT[2:0]`: 0 for success or the code of the fault; nothing before the first request
(10_state.md R32; log 4). -/
def faultPort (s : State) : Option (BitVec 3) :=
  match s.response with
  | .none => none
  | .ok _ => some 0#3
  | .fault f => some f.code

/-- `RESULT[63:0]`: no value after a fault (10_state.md R31, R33) or before the first request (log 4). -/
def resultPort (s : State) : Option Port :=
  match s.response with
  | .none => none
  | .ok result => some result
  | .fault _ => none

/-- One bit of `FLAGS`: 1 exactly when the flag is 1 (10_state.md R29). -/
def Flag.bit (f : Flag) : Bool := f == .one

/-- One bit of `FLAGS_DEF`: 1 exactly when the flag is not `U` (10_state.md R29). -/
def Flag.defined (f : Flag) : Bool := f != .undef

/-- A 32-bit image with five bits at the flags' positions and 0 elsewhere (10_state.md R29). -/
def flagImage (cf pf zf sf of : Bool) : BitVec 32 :=
  (BitVec.ofBool cf).setWidth 32 <<< 0 ||| (BitVec.ofBool pf).setWidth 32 <<< 2
    ||| (BitVec.ofBool zf).setWidth 32 <<< 6 ||| (BitVec.ofBool sf).setWidth 32 <<< 7
    ||| (BitVec.ofBool of).setWidth 32 <<< 11

/-- The output port `FLAGS[31:0]` (10_state.md R29). -/
def flagsPort (F : Flags) : BitVec 32 := flagImage F.cf.bit F.pf.bit F.zf.bit F.sf.bit F.of.bit

/-- The output port `FLAGS_DEF[31:0]` (10_state.md R29). -/
def flagsDefPort (F : Flags) : BitVec 32 :=
  flagImage F.cf.defined F.pf.defined F.zf.defined F.sf.defined F.of.defined

/-- One flag under the host flag-write port: left alone or set (10_state.md R43). -/
def Flag.hostWrite (old : Flag) : Option Bool → Flag
  | none => old
  | some b => .ofBool b

/-- The flags register under the host flag-write port (10_state.md R43). -/
def hostWriteFlags (F : Flags) (w : FlagWrite) : Flags where
  cf := F.cf.hostWrite w.cf
  pf := F.pf.hostWrite w.pf
  zf := F.zf.hostWrite w.zf
  sf := F.sf.hostWrite w.sf
  of := F.of.hostWrite w.of

/-- The state after the host wrote flags: nothing but the flags changes (10_state.md R43). -/
def State.afterHostWrite (s : State) (w : FlagWrite) : State :=
  { s with flags := hostWriteFlags s.flags w }

/-- The state whose next moves of the host are `moves`. -/
def State.withMoves (s : State) (moves : List HostMove) : State :=
  { s with pending := moves }

end Sys2Proof.Machine
end

