-- ==== Sys2Proof/Machine/Flags.lean ====
section
/-!
DEFINITION. The flag_derivation_unit with its six sub-units (40_units.md R85 to R102). Every
comparison is unsigned on the sign-extended views (00_scope.md R13, 90_conflicts.md C2). Each
sub-unit answers the whole new flags register, computed from the flags before the request.
-/

namespace Sys2Proof.Machine

open Sys2Proof

/-- The number of 1 bits among the low 8 bits. -/
def popcount8 (r : Word) : Nat := (List.range 8).countP fun i => r.getLsbD i

/-- `PF(r)`: even parity of `r[7:0]` (40_units.md R86). -/
def parityFlag (r : Word) : Bool := popcount8 r % 2 == 0

/-- `ZF(r, w)` (40_units.md R87). -/
def zeroFlag (r : Word) (w : Width) : Bool := mask r w == 0#32

/-- `SF(r, w) = sign(sx(r, w))` (40_units.md R88). -/
def signFlag (r : Word) (w : Width) : Bool := sign (sx r w)

/-- `CF_add(r, s, w)` (40_units.md R89). -/
def carryAdd (r s : Word) (w : Width) : Bool := (sx r w).ult (sx s w)

/-- `CF_adc(r, s, w, c)` (40_units.md R90). -/
def carryAdc (r s : Word) (w : Width) (c : Bool) : Bool :=
  if c then (sx r w).ule (sx s w) else (sx r w).ult (sx s w)

/-- `OF_add(r, a, b, w)` (40_units.md R91, R94). -/
def overflowAdd (r a b : Word) (w : Width) : Bool :=
  sign (sx a w) == sign (sx b w) && sign (sx r w) != sign (sx a w)

/-- `CF_sub(r, d, w)` (40_units.md R92). -/
def carrySub (r d : Word) (w : Width) : Bool := (sx d w).ult (sx r w)

/-- `CF_sbb(r, d, w)`, the incoming CF being 1 (40_units.md R93). -/
def carrySbb (r d : Word) (w : Width) : Bool := (sx d w).ule (sx r w)

/-- CF and OF of mul: the product above width w is not 0 (40_units.md R95). -/
def productHigh (p : Port) (w : Width) : Bool := p >>> w.bits != 0#64

/-- The common flags PF, ZF, SF with the CF and OF of a sub-unit (40_units.md R85 to R88). -/
def resultFlags (r : Word) (w : Width) (cf of : Flag) : Flags where
  cf := cf
  pf := .ofBool (parityFlag r)
  zf := .ofBool (zeroFlag r w)
  sf := .ofBool (signFlag r w)
  of := of

/-- add_flags: CF as given, OF by the add-overflow rule on src and dest (40_units.md R89 to R91). -/
def addFlags (r s d : Word) (w : Width) (cf : Bool) : Flags :=
  resultFlags r w (.ofBool cf) (.ofBool (overflowAdd r s d w))

/-- sub_flags: CF as given, OF by the add-overflow rule with src inverted (40_units.md R92 to R94). -/
def subFlags (r s d : Word) (w : Width) (cf : Bool) : Flags :=
  resultFlags r w (.ofBool cf) (.ofBool (overflowAdd r (~~~s) d w))

/-- mul_flags: CF and OF only (40_units.md R95). -/
def mulFlags (F : Flags) (p : Port) (w : Width) : Flags :=
  { F with cf := .ofBool (productHigh p w), of := .ofBool (productHigh p w) }

/-- div_flags: no flag is written, for imul, div, idiv, mod and imod (40_units.md R96). -/
def divFlags (F : Flags) : Flags := F

/-- logic_flags: CF and OF are 0 (40_units.md R97). -/
def logicFlags (r : Word) (w : Width) : Flags := resultFlags r w .zero .zero

/-- shift_flags for a count of at least 1: CF as given, OF becomes `U` (40_units.md R98 to R101). -/
def shiftFlags (r : Word) (w : Width) (cf : Bool) : Flags := resultFlags r w (.ofBool cf) .undef

end Sys2Proof.Machine
end

