-- ==== Sys2Proof/Machine/AddSub.lean ====
section
/-!
DEFINITION. add, adc, sub, sbb (41_add_sub.md R106 to R109).
-/

namespace Sys2Proof.Machine

open Sys2Proof

/-- The subtraction of 41_add_sub.md R108 at a legal width, shared by sub and by sbb without a borrow. -/
def subtract (src dest : Port) (w : Width) (s : State) : Host.Outcome State Fault Refusal :=
  let a := operand src
  let d := operand dest
  let r := carryPropagator d (~~~a) true
  complete (subFlags r a d w (carrySub r d w)) (resultMasked r w) s

/-- add (41_add_sub.md R106). -/
def execAdd (src dest : Port) (width : BitVec 6) (s : State) : Host.Outcome State Fault Refusal :=
  withWidth width s fun w =>
    let a := operand src
    let d := operand dest
    let r := carryPropagator a d false
    complete (addFlags r a d w (carryAdd r a w)) (resultMasked r w) s

/-- adc: the incoming CF is read before any flag is written (41_add_sub.md R107, 00_scope.md R16). -/
def execAdc (src dest : Port) (width : BitVec 6) (s : State) : Host.Outcome State Fault Refusal :=
  withWidth width s fun w =>
    withCarry s fun c =>
      let a := operand src
      let d := operand dest
      let r := carryPropagator a d c
      complete (addFlags r a d w (carryAdc r a w c)) (resultMasked r w) s

/-- sub, dest − src (41_add_sub.md R108). -/
def execSub (src dest : Port) (width : BitVec 6) (s : State) : Host.Outcome State Fault Refusal :=
  withWidth width s fun w => subtract src dest w s

/-- sbb: without a borrow it is sub, with one it adds the bitwise complement (41_add_sub.md R109). -/
def execSbb (src dest : Port) (width : BitVec 6) (s : State) : Host.Outcome State Fault Refusal :=
  withWidth width s fun w =>
    withCarry s fun c =>
      if c then
        let a := operand src
        let d := operand dest
        let r := carryPropagator d (~~~a) false
        complete (subFlags r a d w (carrySbb r d w)) (resultMasked r w) s
      else subtract src dest w s

end Sys2Proof.Machine
end

