-- ==== Sys2Proof/Machine/Logic.lean ====
section
/-!
DEFINITION. and, or, xor (43_logic.md R119 to R121).
-/

namespace Sys2Proof.Machine

open Sys2Proof

/-- How a bitwise operation ends from its raw result (43_logic.md R119 to R121, 40_units.md R97). -/
def logicResult (r : Word) (w : Width) (s : State) : Host.Outcome State Fault Refusal :=
  complete (logicFlags r w) (resultMasked r w) s

/-- and (43_logic.md R119). -/
def execAnd (src dest : Port) (width : BitVec 6) (s : State) : Host.Outcome State Fault Refusal :=
  withWidth width s fun w => logicResult (operand src &&& operand dest) w s

/-- or (43_logic.md R120). -/
def execOr (src dest : Port) (width : BitVec 6) (s : State) : Host.Outcome State Fault Refusal :=
  withWidth width s fun w => logicResult (operand src ||| operand dest) w s

/-- xor (43_logic.md R121). -/
def execXor (src dest : Port) (width : BitVec 6) (s : State) : Host.Outcome State Fault Refusal :=
  withWidth width s fun w => logicResult (operand src ^^^ operand dest) w s

end Sys2Proof.Machine
end

