-- ==== Sys2Proof/Machine/MulDiv.lean ====
section
/-!
DEFINITION. mul, imul, div, idiv, mod, imod (42_mul_div.md R111 to R116). The division operations
read the whole 64-bit ports (30_encoding.md R70).
-/

namespace Sys2Proof.Machine

open Sys2Proof

/-- mul: the full product, CF and OF set when it does not fit w bits (42_mul_div.md R111). -/
def execMul (src dest : Port) (width : BitVec 6) (s : State) : Host.Outcome State Fault Refusal :=
  withWidth width s fun w =>
    let p := unsignedOperand (operand src) w * unsignedOperand (operand dest) w
    complete (mulFlags s.flags p w) p s

/-- imul: the full signed product, no flag (42_mul_div.md R112). -/
def execImul (src dest : Port) (width : BitVec 6) (s : State) : Host.Outcome State Fault Refusal :=
  withWidth width s fun w =>
    complete (divFlags s.flags) (signedOperand (operand src) w * signedOperand (operand dest) w) s

/-- div: the unsigned quotient cut to w bits (42_mul_div.md R113). -/
def execDiv (src dest : Port) (width : BitVec 6) (s : State) : Host.Outcome State Fault Refusal :=
  withWidth width s fun w =>
    withDivisor src s
      (let q := dest.toNat / src.toNat
       complete (divFlags s.flags) (resultMasked (BitVec.ofNat 32 q) w) s)

/-- idiv: the signed quotient rounded toward zero, its low 32 bits whatever the width (42_mul_div.md R114). -/
def execIdiv (src dest : Port) (width : BitVec 6) (s : State) : Host.Outcome State Fault Refusal :=
  withWidth width s fun _ =>
    withDivisor src s
      (withSignedQuotient src dest s
        (let q := Int.tdiv dest.toInt src.toInt
         complete (divFlags s.flags) (resultHost (BitVec.ofInt 32 q)) s))

/-- mod: the unsigned remainder, its low 32 bits; WIDTH is ignored (42_mul_div.md R115, 30_encoding.md R66). -/
def execMod (src dest : Port) (_width : BitVec 6) (s : State) : Host.Outcome State Fault Refusal :=
  withDivisor src s
    (let m := dest.toNat % src.toNat
     complete (divFlags s.flags) (resultHost (BitVec.ofNat 32 m)) s)

/-- imod: the signed remainder with the sign of the dividend, its low 32 bits; WIDTH is ignored
(42_mul_div.md R116, 30_encoding.md R66). -/
def execImod (src dest : Port) (_width : BitVec 6) (s : State) : Host.Outcome State Fault Refusal :=
  withDivisor src s
    (withSignedQuotient src dest s
      (let m := Int.tmod dest.toInt src.toInt
       complete (divFlags s.flags) (resultHost (BitVec.ofInt 32 m)) s))

end Sys2Proof.Machine
end

