-- ==== Sys2Proof/Machine/Shift.lean ====
section
/-!
DEFINITION. shl, shr, sar, sal (44_shift.md R123 to R127). A count of 0 returns dest cut to w bits
and writes no flag; the CF formulas are used only for a count of at least 1.
-/

namespace Sys2Proof.Machine

open Sys2Proof

/-- How a shift ends: `raw n` is the raw result and `carry n` its CF for a count n of at least 1
(44_shift.md R123, 40_units.md R98 to R102). -/
def shiftBy (src dest : Port) (w : Width) (raw : Nat → Word) (carry : Nat → Bool) (s : State) :
    Host.Outcome State Fault Refusal :=
  let n := shiftCount src
  if n = 0 then complete s.flags (resultMasked (operand dest) w) s
  else complete (shiftFlags (raw n) w (carry n)) (resultMasked (raw n) w) s

/-- The left shift of 44_shift.md R124 at a legal width, shared by shl and sal. -/
def shiftLeft (src dest : Port) (w : Width) (s : State) : Host.Outcome State Fault Refusal :=
  let d := operand dest
  shiftBy src dest w (fun n => d <<< n) (fun n => (d <<< (n - 1)).getLsbD (w.bits - 1)) s

/-- shl (44_shift.md R124). -/
def execShl (src dest : Port) (width : BitVec 6) (s : State) : Host.Outcome State Fault Refusal :=
  withWidth width s fun w => shiftLeft src dest w s

/-- shr: dest is cut to w bits first (44_shift.md R125). -/
def execShr (src dest : Port) (width : BitVec 6) (s : State) : Host.Outcome State Fault Refusal :=
  withWidth width s fun w =>
    let m := mask (operand dest) w
    shiftBy src dest w (fun n => m >>> n) (fun n => (m >>> (n - 1)).getLsbD 0) s

/-- sar: dest is sign-extended from w bits first (44_shift.md R126). -/
def execSar (src dest : Port) (width : BitVec 6) (s : State) : Host.Outcome State Fault Refusal :=
  withWidth width s fun w =>
    let v := sx (operand dest) w
    shiftBy src dest w (fun n => v.sshiftRight n) (fun n => (v.sshiftRight (n - 1)).getLsbD 0) s

/-- sal: identical to shl (44_shift.md R127). -/
def execSal (src dest : Port) (width : BitVec 6) (s : State) : Host.Outcome State Fault Refusal :=
  withWidth width s fun w => shiftLeft src dest w s

end Sys2Proof.Machine
end

