-- ==== Sys2Proof/Machine/Dispatch.lean ====
section
/-!
DEFINITION. One arm per operation, each one call of its meaning.
-/

namespace Sys2Proof.Machine

open Sys2Proof

def exec (i : Instr) (s : State) : Host.Outcome State Fault Refusal :=
  match i with
  | .add src dest width => Sys2Proof.Machine.execAdd src dest width s
  | .adc src dest width => Sys2Proof.Machine.execAdc src dest width s
  | .sub src dest width => Sys2Proof.Machine.execSub src dest width s
  | .sbb src dest width => Sys2Proof.Machine.execSbb src dest width s
  | .mul src dest width => Sys2Proof.Machine.execMul src dest width s
  | .imul src dest width => Sys2Proof.Machine.execImul src dest width s
  | .div src dest width => Sys2Proof.Machine.execDiv src dest width s
  | .idiv src dest width => Sys2Proof.Machine.execIdiv src dest width s
  | .mod src dest width => Sys2Proof.Machine.execMod src dest width s
  | .imod src dest width => Sys2Proof.Machine.execImod src dest width s
  | .and src dest width => Sys2Proof.Machine.execAnd src dest width s
  | .or src dest width => Sys2Proof.Machine.execOr src dest width s
  | .xor src dest width => Sys2Proof.Machine.execXor src dest width s
  | .shl src dest width => Sys2Proof.Machine.execShl src dest width s
  | .shr src dest width => Sys2Proof.Machine.execShr src dest width s
  | .sar src dest width => Sys2Proof.Machine.execSar src dest width s
  | .sal src dest width => Sys2Proof.Machine.execSal src dest width s

end Sys2Proof.Machine
end

