-- ==== Sys2Proof/Machine/Issue.lean ====
section
/-!
DEFINITION. Performing one request (10_state.md R42) and one move of the host (10_state.md R43, R44).
-/

namespace Sys2Proof.Machine

open Sys2Proof

/-- The block's step of 10_state.md R42 on one request: refused with the reference implementation, a
fault of the decoder, or the rule of its operation. -/
def issue (r : Request) (s : State) : Host.Outcome State Fault Refusal :=
  match s.impl with
  | .referenceImpl => .refused .referenceImplementation
  | .localImpl =>
    match decode r with
    | .error e => raiseFault (.ofDecodeError e) s
    | .ok i => exec i s

/-- One move of the host: a request, or a flag write, which is no operation of the block and raises no
fault (10_state.md R43; log 2). -/
def hostMove (m : HostMove) (s : State) : Host.Outcome State Fault Refusal :=
  match m with
  | .request r => issue r s
  | .writeFlags w => .next (s.afterHostWrite w)

/-- The next move of the host, in the order it makes them (20_memory.md R54); with no move to come the
block is idle and nothing changes (DESIGN CHOICE, log 3, safe). -/
def takeTurn (s : State) : Host.Outcome State Fault Refusal :=
  match s.pending with
  | [] => .next s
  | m :: rest => hostMove m (s.withMoves rest)

/-- The state in which the host's very next move is the request `r` (log 9). -/
def placeRequest (r : Request) (s : State) : State :=
  s.withMoves (.request r :: s.pending)

end Sys2Proof.Machine
end

