-- ==== Sys2Proof/Machine/Step.lean ====
section
/-!
DEFINITION. One step of the machine: one move of the host, performed completely.
-/

namespace Sys2Proof.Machine

open Sys2Proof

/-- One step (10_state.md R42, R43). -/
def step (s : State) : Host.Outcome State Fault Refusal := takeTurn s

/-- The state whose very next step performs the request of a table word (log 8, log 9). -/
def State.withFetchWord (s : State) (nbits w : Nat) : State :=
  placeRequest (Request.ofTableWord nbits w) s

end Sys2Proof.Machine
end

