-- ==== Sys2Proof/Safety.lean ====
section
/-!
DEFINITION. The terms claims are stated in: operands and results as numbers, the state a successful or
a faulting request leaves, successful ends of a run, and the invariant of a run without host flag writes.
-/

namespace Sys2Proof.Safety

open Sys2Proof Sys2Proof.Machine

/-- The low w bits of a port as an unsigned number, the spec's `S` and `D` (40_units.md R103). -/
def unsignedAt (w : Width) (p : Port) : Nat := p.toNat % 2 ^ w.bits

/-- The low w bits of a port as a two's-complement number, the spec's `S'` and `D'` (40_units.md R104). -/
def signedAt (w : Width) (p : Port) : Int := (p.setWidth w.bits).toInt

/-- A number outside −2^(w−1) … 2^(w−1)−1 (40_units.md R104). -/
def outOfSignedRange (w : Width) (x : Int) : Bool :=
  decide (x < -2 ^ (w.bits - 1) ∨ 2 ^ (w.bits - 1) ≤ x)

/-- An even number of 1 bits among the low 8 bits of a number (10_state.md R23). -/
def evenParity (n : Nat) : Bool := (List.range 8).countP n.testBit % 2 == 0

/-- PF, ZF and SF as the w-bit result `n` gives them (10_state.md R23 to R25). -/
def StatusFlags (w : Width) (n : Nat) (F : Flags) : Prop :=
  F.pf = .ofBool (evenParity n) ∧ F.zf = .ofBool (n == 0) ∧ F.sf = .ofBool (n.testBit (w.bits - 1))

/-- `s` after a request that succeeded with flags `F` and result `r`: nothing else differs. -/
def succeeded (s : State) (F : Flags) (r : Port) : State := { s with flags := F, response := .ok r }

/-- `s` after a request that raised `f`: nothing else differs (60_exceptions.md R129). -/
def faulted (s : State) (f : Fault) : State :=
  { s with faults := s.faults ++ [f], response := .fault f }

/-- The most negative dividend and the divisor −1 (60_exceptions.md R136). -/
def OverflowPair (src dest : Port) : Prop :=
  dest = 0x8000000000000000#64 ∧ src = 0xFFFFFFFFFFFFFFFF#64

/-- Whether a successful operation writes PF, ZF and SF (10_state.md R23, R27). -/
def WritesStatus : Instr → Prop
  | .add _ _ _ | .adc _ _ _ | .sub _ _ _ | .sbb _ _ _ => True
  | .mul _ _ _ | .imul _ _ _ | .div _ _ _ | .idiv _ _ _ | .mod _ _ _ | .imod _ _ _ => False
  | .and _ _ _ | .or _ _ _ | .xor _ _ _ => True
  | .shl src _ _ | .shr src _ _ | .sar src _ _ | .sal src _ _ => src.toNat % 32 ≠ 0

/-- The WIDTH field of an operation. -/
def widthOf : Instr → BitVec 6
  | .add _ _ n | .adc _ _ n | .sub _ _ n | .sbb _ _ n | .mul _ _ n | .imul _ _ n | .div _ _ n
  | .idiv _ _ n | .mod _ _ n | .imod _ _ n | .and _ _ n | .or _ _ n | .xor _ _ n | .shl _ _ n
  | .shr _ _ n | .sar _ _ n | .sal _ _ n => n

/-- How many low bits of RESULT an operation can set (10_state.md R31, 30_encoding.md R71). -/
def resultBits : Instr → Nat
  | .add _ _ n | .adc _ _ n | .sub _ _ n | .sbb _ _ n | .div _ _ n | .and _ _ n | .or _ _ n
  | .xor _ _ n | .shl _ _ n | .shr _ _ n | .sar _ _ n | .sal _ _ n => n.toNat
  | .idiv _ _ _ | .mod _ _ _ | .imod _ _ _ => 32
  | .mul _ _ n => 2 * n.toNat
  | .imul _ _ _ => 64

/-- No fault is recorded, the premise of a claim about a run (60_exceptions.md R140). -/
def NoFault (s : State) : Prop := s.faults = []

/-- The end of a successful run: the host issues no further request and no fault was raised
(10_state.md R45). -/
def SuccessfulEnd (s : State) : Prop := s.pending = [] ∧ NoFault s

/-- PF, ZF and SF describe one result, or none of them has a value: a zero result has even parity and
no sign (40_units.md R86 to R88; written together, 10_state.md R24, R25). -/
def FlagsCoherent (F : Flags) : Prop :=
  (F.zf = .one → F.pf = .one ∧ F.sf = .zero) ∧
    (F.pf = .undef ↔ F.zf = .undef) ∧ (F.zf = .undef ↔ F.sf = .undef)

/-- The invariant of a run in which the host writes no flag: its moves are requests, PF, ZF and SF are
coherent, and a fault on the FAULT port is the last one recorded. -/
def Inv (s : State) : Prop :=
  (∀ m ∈ s.pending, ∃ r, m = .request r) ∧ FlagsCoherent s.flags ∧
    ∀ f, s.response = .fault f → s.faults.getLast? = some f

end Sys2Proof.Safety
end

