-- ==== Sys2Proof/Certificates/Slice0/Obligations.lean ====
section
/-!
DEFINITION. The statements for the provers. `S` and `D` of the spec are `unsignedAt w src` and
`unsignedAt w dest`; `w.field` is the WIDTH field of a legal width, so a statement over `w : Width`
covers every legal width and InvalidWidthExactlyWhenIllFormed the others. `issue r s` is the block's
step on one request (10_state.md R42).
-/

open Sys2Proof Sys2Proof.Machine Sys2Proof.Safety

/-! ### Encoding -/

/-- The decoder reads back every encoded operation, with every operand and every WIDTH field
(30_encoding.md R59, R63, R72). -/
def Obligations.DecodeReadsBackEncode : Prop := ∀ i : Instr, decode (encode i) = .ok i

/-- A request the decoder accepts is the encoding of what it read: no bit is dropped and no two requests
share an operation (30_encoding.md R59 to R63, R73). -/
def Obligations.AcceptedRequestIsEncoding : Prop :=
  ∀ (r : Request) (i : Instr), decode r = .ok i → encode i = r

/-- The worked encodings of 30_encoding.md R77. -/
def Obligations.WorkedEncodings : Prop :=
  decode ⟨0b0000000100000000#16, 0xFF#64, 0x01#64⟩ = .ok (.add 0xFF#64 0x01#64 8#6) ∧
  (0b0000000100000000#16 = 0x0100#16) ∧
  decode ⟨0x0401#16, 0x2#64, 0x1#64⟩ = .ok (.adc 0x2#64 0x1#64 32#6) ∧
  decode ⟨0x010F#16, 0x1#64, 0xFF#64⟩ = .ok (.sar 0x1#64 0xFF#64 8#6) ∧
  decode ⟨0x0108#16, 0x7#64, 0x100#64⟩ = .ok (.mod 0x7#64 0x100#64 8#6) ∧
  decode ⟨0x0008#16, 0x7#64, 0x100#64⟩ = .ok (.mod 0x7#64 0x100#64 0#6) ∧
  ∀ (src dest : Port) (s : State), s.impl = .localImpl →
    issue ⟨0x0011#16, src, dest⟩ s = .next (faulted s .illegalOp) ∧
    issue ⟨0x0000#16, src, dest⟩ s = .next (faulted s .invalidWidth) ∧
    issue ⟨0x0900#16, src, dest⟩ s = .next (faulted s .reservedControlBits)

/-! ### The step and the host -/

/-- A step whose next host move is a request that decodes runs the decoded operation, with the move taken
off the list (10_state.md R42; the list of moves is the model's, log 2). -/
def Obligations.StepRunsDecodedOperation : Prop :=
  ∀ (s : State) (r : Request) (rest : List HostMove) (i : Instr),
    s.impl = .localImpl → s.pending = .request r :: rest → decode r = .ok i →
      step s = exec i { s with pending := rest }

/-- A step whose next host move is a request is the block's step on that request (10_state.md R42; log 2). -/
def Obligations.StepPerformsNextRequest : Prop :=
  ∀ (s : State) (r : Request) (rest : List HostMove), s.pending = .request r :: rest →
    step s = issue r { s with pending := rest }

/-- With no move of the host to come a step changes nothing: the model's choice, log 3. -/
def Obligations.StepWithoutMovesIsIdle : Prop := ∀ s : State, s.pending = [] → step s = .next s

/-- A host flag write sets the chosen flags to 0 or 1, leaves the others alone and raises no fault
(10_state.md R43). The rest is the model's: that the write is a step of its own, taken off the list of
moves (log 2), that the answer to the last request stays (log 4, DESIGN CHOICE: the spec does not say what
the ports show after a flag write), and that it is not refused with the reference implementation (log 12). -/
def Obligations.HostFlagWriteSetsChosenFlags : Prop :=
  ∀ (s : State) (w : FlagWrite) (rest : List HostMove), s.pending = .writeFlags w :: rest →
    step s = .next
      { s with
        flags :=
          { cf := w.cf.elim s.flags.cf fun b => if b then .one else .zero
            pf := w.pf.elim s.flags.pf fun b => if b then .one else .zero
            zf := w.zf.elim s.flags.zf fun b => if b then .one else .zero
            sf := w.sf.elim s.flags.sf fun b => if b then .one else .zero
            of := w.of.elim s.flags.of fun b => if b then .one else .zero }
        pending := rest }

/-- After reset every flag is `U`, FAULTS is empty and no request is in progress
(70_reset_and_hazards.md R148, R149). -/
def Obligations.ResetLeavesFlagsUndefined : Prop :=
  State.reset.flags.cf = .undef ∧ State.reset.flags.pf = .undef ∧ State.reset.flags.zf = .undef ∧
  State.reset.flags.sf = .undef ∧ State.reset.flags.of = .undef ∧
  State.reset.faults = [] ∧ ∀ r, HostMove.request r ∉ State.reset.pending

/-- A request is refused exactly when `ALU_IMPL = reference`, and no step stops with a fault
(00_scope.md R10, 60_exceptions.md R143; a fault is a next state, log 1). -/
def Obligations.OnlyReferenceIsRefused : Prop :=
  (∀ (r : Request) (s : State), s.impl = .referenceImpl →
    issue r s = .refused .referenceImplementation) ∧
  (∀ (s : State) (q : Refusal), step s = .refused q →
    s.impl = .referenceImpl ∧ q = .referenceImplementation ∧
      ∃ r rest, s.pending = .request r :: rest) ∧
  ∀ (s : State) (f : Fault), step s ≠ .fault f

/-- Every request completes in its step, and a run cannot hang (70_reset_and_hazards.md R160): a run that
makes as many steps as the host has moves performs them all. That a step is one move of the host, flag
writes included, and that a run ends with an empty list of moves, is the model's choice (log 2, DESIGN
CHOICE), as is the answer each request leaves (log 4). -/
def Obligations.EveryRequestTerminates : Prop :=
  (∀ (r : Request) (s : State), s.impl = .localImpl →
    ∃ t, issue r s = .next t ∧ t.pending = s.pending ∧ t.response ≠ .none) ∧
  ∀ s : State, s.impl = .localImpl →
    ∃ t : State, Host.Core.run Sys2Proof.core s.pending.length s = .next t ∧ t.pending = []

/-- No step changes `ALU_IMPL` (70_reset_and_hazards.md R151), and a step takes exactly the host's next
move off the list (20_memory.md R54; log 2). -/
def Obligations.StepKeepsImplementation : Prop :=
  ∀ s t : State, step s = .next t → t.impl = s.impl ∧ t.pending = s.pending.tail

/-! ### Faults -/

/-- Which fault a request raises: the first that applies, in the order of 60_exceptions.md R138, and a
request to which none applies succeeds. -/
def Obligations.FirstApplicableFaultIsReported : Prop :=
  ∀ (r : Request) (s : State), s.impl = .localImpl →
    let op := r.cw.toNat % 32
    let width := r.cw.toNat / 32 % 64
    if r.cw.toNat / 2048 ≠ 0 then issue r s = .next (faulted s .reservedControlBits)
    else if 16 < op then issue r s = .next (faulted s .illegalOp)
    else if op ≠ 8 ∧ op ≠ 9 ∧ width ≠ 8 ∧ width ≠ 16 ∧ width ≠ 32 then
      issue r s = .next (faulted s .invalidWidth)
    else if (op = 1 ∨ op = 3) ∧ s.flags.cf = .undef then
      issue r s = .next (faulted s .undefinedFlagRead)
    else if 6 ≤ op ∧ op ≤ 9 ∧ r.src = 0#64 then issue r s = .next (faulted s .divideByZero)
    else if (op = 7 ∨ op = 9) ∧ r.dest = 0x8000000000000000#64 ∧ r.src = 0xFFFFFFFFFFFFFFFF#64 then
      issue r s = .next (faulted s .divideOverflow)
    else ∃ (F : Flags) (result : Port), issue r s = .next (succeeded s F result)

/-- A faulting request shows a non-zero code and no result, leaves every flag, appends its fault to
FAULTS, and has no other effect (60_exceptions.md R129). -/
def Obligations.FaultHasNoOtherEffect : Prop :=
  ∀ (r : Request) (s t : State) (f : Fault), issue r s = .next t → t.response = .fault f →
    t = { s with faults := s.faults ++ [f], response := .fault f } ∧
      (∃ code, faultPort t = some code ∧ code ≠ 0#3) ∧ resultPort t = none

/-- Every request shows either code 0 and a result, or the code of the one fault it raised and no result
(10_state.md R32, R33; the codes of 60_exceptions.md R130). -/
def Obligations.FaultPortShowsOneCode : Prop :=
  ∀ (r : Request) (s t : State), issue r s = .next t →
    (faultPort t = some 0#3 ∧ (∃ result, resultPort t = some result) ∧ t.faults = s.faults) ∨
    ∃ f code, (f, code) ∈ [(Fault.reservedControlBits, 1#3), (Fault.illegalOp, 2#3),
        (Fault.invalidWidth, 3#3), (Fault.undefinedFlagRead, 4#3), (Fault.divideByZero, 5#3),
        (Fault.divideOverflow, 6#3)] ∧
      faultPort t = some code ∧ resultPort t = none ∧ t.faults = s.faults ++ [f]

/-- `CW[15:11] ≠ 0` raises ReservedControlBits for every value of the other fields
(60_exceptions.md R131), and an OP of 17 to 31 without reserved bits raises IllegalOp (R132). -/
def Obligations.BadControlWordsFault : Prop :=
  (∀ (r : Request) (s : State), s.impl = .localImpl → r.cw.extractLsb 15 11 ≠ 0 →
    issue r s = .next (faulted s .reservedControlBits)) ∧
  ∀ (r : Request) (s : State), s.impl = .localImpl → r.cw.extractLsb 15 11 = 0 →
    17 ≤ (r.cw.extractLsb 4 0).toNat → issue r s = .next (faulted s .illegalOp)

/-- InvalidWidth is raised exactly when the operation is not mod or imod and its WIDTH field is not 8, 16
or 32 (60_exceptions.md R133). -/
def Obligations.InvalidWidthExactlyWhenIllFormed : Prop :=
  (∀ (width : BitVec 6), legalWidth width = true ↔ width.toNat ∈ [8, 16, 32]) ∧
  ∀ (i : Instr) (s : State),
    (i.wellFormed = false → exec i s = .next (faulted s .invalidWidth)) ∧
    ∀ t, exec i s = .next t → t.response = .fault .invalidWidth →
      i.wellFormed = false ∧ ∀ src dest width, i ≠ .mod src dest width ∧ i ≠ .imod src dest width

/-- adc and sbb raise UndefinedFlagRead when CF is `U`, nothing else raises it, and CF is `U` only as long
as neither an operation nor the host has written it since reset (60_exceptions.md R134). -/
def Obligations.UndefinedCarryFaults : Prop :=
  (∀ (w : Width) (src dest : Port) (s : State), s.flags.cf = .undef →
    exec (.adc src dest w.field) s = .next (faulted s .undefinedFlagRead) ∧
    exec (.sbb src dest w.field) s = .next (faulted s .undefinedFlagRead)) ∧
  (∀ (i : Instr) (s t : State), exec i s = .next t → t.response = .fault .undefinedFlagRead →
    s.flags.cf = .undef ∧ ∃ src dest width, i = .adc src dest width ∨ i = .sbb src dest width) ∧
  State.reset.flags.cf = .undef ∧
  ∀ s t : State, step s = .next t → s.flags.cf ≠ .undef → t.flags.cf ≠ .undef

/-- div, idiv, mod and imod raise DivideByZero when the divisor is 0, and nothing else does
(60_exceptions.md R135). -/
def Obligations.ZeroDivisorFaults : Prop :=
  (∀ (w : Width) (dest : Port) (s : State),
    exec (.div 0#64 dest w.field) s = .next (faulted s .divideByZero) ∧
    exec (.idiv 0#64 dest w.field) s = .next (faulted s .divideByZero)) ∧
  (∀ (width : BitVec 6) (dest : Port) (s : State),
    exec (.mod 0#64 dest width) s = .next (faulted s .divideByZero) ∧
    exec (.imod 0#64 dest width) s = .next (faulted s .divideByZero)) ∧
  ∀ (i : Instr) (s t : State), exec i s = .next t → t.response = .fault .divideByZero →
    ∃ dest width, i = .div 0#64 dest width ∨ i = .idiv 0#64 dest width ∨
      i = .mod 0#64 dest width ∨ i = .imod 0#64 dest width

/-- idiv and imod raise DivideOverflow on the most negative dividend and −1, nothing else does, and a
quotient that does not fit w or 32 bits is no fault (60_exceptions.md R136). -/
def Obligations.DivideOverflowOnOnePairOnly : Prop :=
  (∀ (w : Width) (width : BitVec 6) (src dest : Port) (s : State), OverflowPair src dest →
    exec (.idiv src dest w.field) s = .next (faulted s .divideOverflow) ∧
    exec (.imod src dest width) s = .next (faulted s .divideOverflow)) ∧
  (∀ (w : Width) (width : BitVec 6) (src dest : Port) (s : State), src ≠ 0#64 →
    (∃ q, exec (.div src dest w.field) s = .next (succeeded s s.flags q)) ∧
    (∃ m, exec (.mod src dest width) s = .next (succeeded s s.flags m)) ∧
    (¬ OverflowPair src dest →
      (∃ q, exec (.idiv src dest w.field) s = .next (succeeded s s.flags q)) ∧
      ∃ m, exec (.imod src dest width) s = .next (succeeded s s.flags m))) ∧
  ∀ (i : Instr) (s t : State), exec i s = .next t → t.response = .fault .divideOverflow →
    ∃ src dest width, OverflowPair src dest ∧ (i = .idiv src dest width ∨ i = .imod src dest width)

/-- Faults are appended and never removed, and a run through a recorded fault has no successful end
(60_exceptions.md R140, 10_state.md R40). -/
def Obligations.FaultsAreNeverRemoved : Prop :=
  (∀ (r : Request) (s t : State) (f : Fault), issue r s = .next t → t.response = .fault f →
    t.faults = s.faults ++ [f]) ∧
  (∀ s t : State, step s = .next t → ∃ new, t.faults = s.faults ++ new ∧ new.length ≤ 1) ∧
  ∀ (k : Nat) (s t : State), ¬ NoFault s →
    Host.Core.run Sys2Proof.core k s = .next t → ¬ SuccessfulEnd t

/-! ### The frame of every operation -/

/-- An operation changes only F, FAULTS and the answer; FAULTS at most by one fault at its end
(10_state.md R34, R36). -/
def Obligations.OperationTouchesOnlyItsOutputs : Prop :=
  ∀ (i : Instr) (s t : State), exec i s = .next t →
    t.impl = s.impl ∧ t.pending = s.pending ∧
      ((∃ result, t.response = .ok result ∧ t.faults = s.faults) ∨
        ∃ f, t.response = .fault f ∧ t.faults = s.faults ++ [f] ∧ t.flags = s.flags)

/-- An operation's answer and the flags it writes depend on the request alone, for adc and sbb on CF too;
a flag it does not write keeps its value unread (10_state.md R28). -/
def Obligations.OnlyAdcAndSbbReadAFlag : Prop :=
  ∀ (i : Instr) (s₁ s₂ t₁ t₂ : State),
    ((∃ src dest width, i = .adc src dest width ∨ i = .sbb src dest width) →
      s₁.flags.cf = s₂.flags.cf) →
    exec i s₁ = .next t₁ → exec i s₂ = .next t₂ →
      t₁.response = t₂.response ∧
      (t₁.flags.cf = t₂.flags.cf ∨ t₁.flags.cf = s₁.flags.cf ∧ t₂.flags.cf = s₂.flags.cf) ∧
      (t₁.flags.pf = t₂.flags.pf ∨ t₁.flags.pf = s₁.flags.pf ∧ t₂.flags.pf = s₂.flags.pf) ∧
      (t₁.flags.zf = t₂.flags.zf ∨ t₁.flags.zf = s₁.flags.zf ∧ t₂.flags.zf = s₂.flags.zf) ∧
      (t₁.flags.sf = t₂.flags.sf ∨ t₁.flags.sf = s₁.flags.sf ∧ t₂.flags.sf = s₂.flags.sf) ∧
      (t₁.flags.of = t₂.flags.of ∨ t₁.flags.of = s₁.flags.of ∧ t₂.flags.of = s₂.flags.of)

/-- PF, ZF and SF after every operation: those of its result for the operations that write them, and
unchanged after the others, count-0 shifts and faults (10_state.md R23 to R25, R27). -/
def Obligations.StatusFlagsDescribeTheResult : Prop :=
  ∀ (i : Instr) (s t : State), exec i s = .next t →
    (∀ (w : Width) (result : Port), WritesStatus i → widthOf i = w.field →
      t.response = .ok result → StatusFlags w result.toNat t.flags) ∧
    (¬ WritesStatus i ∨ (∃ f, t.response = .fault f) →
      t.flags.pf = s.flags.pf ∧ t.flags.zf = s.flags.zf ∧ t.flags.sf = s.flags.sf)

/-- No step takes the value of CF, PF, ZF or SF away, and only a shift with a non-zero count takes that of
OF away (10_state.md R27, R43; 40_units.md R101). -/
def Obligations.OnlyShiftsMakeAFlagUndefined : Prop :=
  ∀ s t : State, step s = .next t →
    (s.flags.cf ≠ .undef → t.flags.cf ≠ .undef) ∧ (s.flags.pf ≠ .undef → t.flags.pf ≠ .undef) ∧
    (s.flags.zf ≠ .undef → t.flags.zf ≠ .undef) ∧ (s.flags.sf ≠ .undef → t.flags.sf ≠ .undef) ∧
    (s.flags.of ≠ .undef → t.flags.of = .undef →
      ∃ r rest, s.pending = .request r :: rest ∧ r.src.toNat % 32 ≠ 0 ∧
        13 ≤ r.cw.toNat % 32 ∧ r.cw.toNat % 32 ≤ 16)

/-- A result has no bit above the width its operation gives it: w for the masked operations, 32 for idiv,
mod and imod, 2w for mul (10_state.md R31, 30_encoding.md R71, 42_mul_div.md R111). -/
def Obligations.ResultFitsItsWidth : Prop :=
  ∀ (i : Instr) (s t : State) (result : Port), exec i s = .next t → t.response = .ok result →
    result.toNat < 2 ^ resultBits i

/-- Bits of the operands above w−1, and bits of a shift count above 4, never change a result or a flag
(30_encoding.md R68, R69). -/
def Obligations.HighOperandBitsAreIgnored : Prop :=
  ∀ (w : Width) (src src' dest dest' : Port) (s : State),
    unsignedAt w dest = unsignedAt w dest' →
    (unsignedAt w src = unsignedAt w src' →
      exec (.add src dest w.field) s = exec (.add src' dest' w.field) s ∧
      exec (.adc src dest w.field) s = exec (.adc src' dest' w.field) s ∧
      exec (.sub src dest w.field) s = exec (.sub src' dest' w.field) s ∧
      exec (.sbb src dest w.field) s = exec (.sbb src' dest' w.field) s ∧
      exec (.mul src dest w.field) s = exec (.mul src' dest' w.field) s ∧
      exec (.imul src dest w.field) s = exec (.imul src' dest' w.field) s ∧
      exec (.and src dest w.field) s = exec (.and src' dest' w.field) s ∧
      exec (.or src dest w.field) s = exec (.or src' dest' w.field) s ∧
      exec (.xor src dest w.field) s = exec (.xor src' dest' w.field) s) ∧
    (src.toNat % 32 = src'.toNat % 32 →
      exec (.shl src dest w.field) s = exec (.shl src' dest' w.field) s ∧
      exec (.shr src dest w.field) s = exec (.shr src' dest' w.field) s ∧
      exec (.sar src dest w.field) s = exec (.sar src' dest' w.field) s ∧
      exec (.sal src dest w.field) s = exec (.sal src' dest' w.field) s)

/-- mod and imod ignore WIDTH and never raise InvalidWidth; idiv checks it and does not use it
(30_encoding.md R66). -/
def Obligations.ModIgnoresWidthIdivOnlyChecksIt : Prop :=
  (∀ (src dest : Port) (n n' : BitVec 6) (s : State),
    exec (.mod src dest n) s = exec (.mod src dest n') s ∧
    exec (.imod src dest n) s = exec (.imod src dest n') s ∧
    exec (.mod src dest n) s ≠ .next (faulted s .invalidWidth) ∧
    exec (.imod src dest n) s ≠ .next (faulted s .invalidWidth)) ∧
  ∀ (src dest : Port) (s : State),
    (∀ w w' : Width, exec (.idiv src dest w.field) s = exec (.idiv src dest w'.field) s) ∧
    ∀ n : BitVec 6, legalWidth n = false →
      exec (.idiv src dest n) s = .next (faulted s .invalidWidth)

/-! ### Addition and subtraction -/

/-- CF is the carry or borrow out of bit w−1 (40_units.md R103). -/
def Obligations.CarryIsCarryOrBorrowOut : Prop :=
  ∀ (w : Width) (src dest : Port) (s : State),
    (∃ t, exec (.add src dest w.field) s = .next t ∧
      t.flags.cf = .ofBool (decide (2 ^ w.bits ≤ unsignedAt w src + unsignedAt w dest))) ∧
    (∃ t, exec (.sub src dest w.field) s = .next t ∧
      t.flags.cf = .ofBool (decide (unsignedAt w dest < unsignedAt w src))) ∧
    ∀ c : Bool, s.flags.cf = .ofBool c →
      (∃ t, exec (.adc src dest w.field) s = .next t ∧
        t.flags.cf = .ofBool (decide (2 ^ w.bits ≤ unsignedAt w src + unsignedAt w dest + c.toNat))) ∧
      ∃ t, exec (.sbb src dest w.field) s = .next t ∧
        t.flags.cf = .ofBool (decide (unsignedAt w dest < unsignedAt w src + c.toNat))

/-- OF is signed overflow of the w-bit operands and the incoming carry (40_units.md R104). -/
def Obligations.OverflowIsSignedOverflow : Prop :=
  ∀ (w : Width) (src dest : Port) (s : State),
    (∃ t, exec (.add src dest w.field) s = .next t ∧
      t.flags.of = .ofBool (outOfSignedRange w (signedAt w src + signedAt w dest))) ∧
    (∃ t, exec (.sub src dest w.field) s = .next t ∧
      t.flags.of = .ofBool (outOfSignedRange w (signedAt w dest - signedAt w src))) ∧
    ∀ c : Bool, s.flags.cf = .ofBool c →
      (∃ t, exec (.adc src dest w.field) s = .next t ∧
        t.flags.of = .ofBool (outOfSignedRange w (signedAt w src + signedAt w dest + c.toNat))) ∧
      ∃ t, exec (.sbb src dest w.field) s = .next t ∧
        t.flags.of = .ofBool (outOfSignedRange w (signedAt w dest - signedAt w src - c.toNat))

/-- The laws of the family: the four results modulo 2^w, the round trip, and the chained 2w-bit sum and
difference (41_add_sub.md R110). -/
def Obligations.AdditionFamilyLaws : Prop :=
  (∀ (w : Width) (src dest : Port) (s : State),
    (∃ F, exec (.add src dest w.field) s =
      .next (succeeded s F (BitVec.ofNat 64 ((unsignedAt w src + unsignedAt w dest) % 2 ^ w.bits)))) ∧
    (∃ F, exec (.sub src dest w.field) s = .next (succeeded s F
      (BitVec.ofInt 64 (((unsignedAt w dest : Int) - unsignedAt w src) % 2 ^ w.bits)))) ∧
    ∀ c : Bool, s.flags.cf = .ofBool c →
      (∃ F, exec (.adc src dest w.field) s = .next (succeeded s F
        (BitVec.ofNat 64 ((unsignedAt w src + unsignedAt w dest + c.toNat) % 2 ^ w.bits)))) ∧
      ∃ F, exec (.sbb src dest w.field) s = .next (succeeded s F
        (BitVec.ofInt 64 (((unsignedAt w dest : Int) - unsignedAt w src - c.toNat) % 2 ^ w.bits)))) ∧
  (∀ (w : Width) (src dest sum : Port) (s t : State),
    exec (.add src dest w.field) s = .next t → t.response = .ok sum →
      ∃ u, exec (.sub src sum w.field) t = .next u ∧
        u.response = .ok (BitVec.ofNat 64 (unsignedAt w dest))) ∧
  ∀ (w : Width) (src dest src' dest' : Port) (s t : State) (low : Port),
    let a := unsignedAt w src + 2 ^ w.bits * unsignedAt w src'
    let b := unsignedAt w dest + 2 ^ w.bits * unsignedAt w dest'
    (exec (.add src dest w.field) s = .next t → t.response = .ok low →
      ∃ u high, exec (.adc src' dest' w.field) t = .next u ∧ u.response = .ok high ∧
        low.toNat + 2 ^ w.bits * high.toNat = (a + b) % 2 ^ (2 * w.bits)) ∧
    (exec (.sub src dest w.field) s = .next t → t.response = .ok low →
      ∃ u high, exec (.sbb src' dest' w.field) t = .next u ∧ u.response = .ok high ∧
        ((low.toNat + 2 ^ w.bits * high.toNat : Nat) : Int) = ((b : Int) - a) % 2 ^ (2 * w.bits))

/-- With CF = 0, adc is add and sbb is sub, on every operand and every WIDTH field
(41_add_sub.md R107, R109). -/
def Obligations.WithoutCarryAdcIsAddAndSbbIsSub : Prop :=
  ∀ (src dest : Port) (width : BitVec 6) (s : State), s.flags.cf = .zero →
    exec (.adc src dest width) s = exec (.add src dest width) s ∧
    exec (.sbb src dest width) s = exec (.sub src dest width) s

/-! ### Multiplication and division -/

/-- mul returns the exact product; CF and OF say whether it reaches 2^w, PF, ZF and SF keep their values
(42_mul_div.md R111, 40_units.md R95). -/
def Obligations.MulReturnsExactProduct : Prop :=
  ∀ (w : Width) (src dest : Port) (s : State),
    let p := unsignedAt w src * unsignedAt w dest
    let high := Flag.ofBool (decide (2 ^ w.bits ≤ p))
    p < 2 ^ 64 ∧ exec (.mul src dest w.field) s =
      .next (succeeded s { s.flags with cf := high, of := high } (BitVec.ofNat 64 p))

/-- imul returns the exact signed product and writes no flag (42_mul_div.md R112, 40_units.md R96). -/
def Obligations.ImulReturnsExactSignedProduct : Prop :=
  ∀ (w : Width) (src dest : Port) (s : State),
    ∃ p : Port, p.toInt = signedAt w src * signedAt w dest ∧
      exec (.imul src dest w.field) s = .next (succeeded s s.flags p)

/-- The halves the host splits a product into: RESULT[w−1:0] and RESULT[2w−1:w], the high half signed for
imul (20_memory.md R49). -/
def Obligations.ProductSplitsIntoHalves : Prop :=
  ∀ (w : Width) (src dest : Port) (s : State),
    (∃ t p, exec (.mul src dest w.field) s = .next t ∧ t.response = .ok p ∧
      unsignedAt w p + 2 ^ w.bits * unsignedAt w (p >>> w.bits)
        = unsignedAt w src * unsignedAt w dest) ∧
    ∃ t p, exec (.imul src dest w.field) s = .next t ∧ t.response = .ok p ∧
      (unsignedAt w p : Int) + 2 ^ w.bits * signedAt w (p >>> w.bits)
        = signedAt w src * signedAt w dest

/-- Quotient and remainder satisfy the division laws, unsigned for div and mod, truncating for idiv and
imod; RESULT holds the quotient's low w bits for div and the low 32 bits otherwise; no flag changes
(42_mul_div.md R113 to R117). -/
def Obligations.DivisionLaws : Prop :=
  (∀ (w : Width) (width : BitVec 6) (src dest : Port) (s : State), src ≠ 0#64 →
    ∃ q m : Nat, dest.toNat = q * src.toNat + m ∧ m < src.toNat ∧
      exec (.div src dest w.field) s =
        .next (succeeded s s.flags (BitVec.ofNat 64 (q % 2 ^ w.bits))) ∧
      exec (.mod src dest width) s = .next (succeeded s s.flags (BitVec.ofNat 64 (m % 2 ^ 32)))) ∧
  ∀ (w : Width) (width : BitVec 6) (src dest : Port) (s : State), src ≠ 0#64 →
    ¬ OverflowPair src dest →
    ∃ q m : Int, dest.toInt = q * src.toInt + m ∧ m.natAbs < src.toInt.natAbs ∧
      (m = 0 ∨ m.sign = dest.toInt.sign) ∧
      exec (.idiv src dest w.field) s =
        .next (succeeded s s.flags (BitVec.ofInt 64 (q % 2 ^ 32))) ∧
      exec (.imod src dest width) s = .next (succeeded s s.flags (BitVec.ofInt 64 (m % 2 ^ 32)))

/-- mul writes CF and OF only; imul, div, idiv, mod and imod write no flag, faulting or not
(42_mul_div.md R118). -/
def Obligations.MulDivFlagEffects : Prop :=
  ∀ (src dest : Port) (width : BitVec 6) (s t : State),
    (exec (.mul src dest width) s = .next t →
      t.flags.pf = s.flags.pf ∧ t.flags.zf = s.flags.zf ∧ t.flags.sf = s.flags.sf ∧
        ((∃ p, t.response = .ok p) → t.flags.cf = t.flags.of ∧ t.flags.cf ≠ .undef)) ∧
    (exec (.imul src dest width) s = .next t ∨ exec (.div src dest width) s = .next t ∨
      exec (.idiv src dest width) s = .next t ∨ exec (.mod src dest width) s = .next t ∨
      exec (.imod src dest width) s = .next t → t.flags = s.flags)

/-! ### Logic -/

/-- and, or and xor are bitwise, clear CF and OF and never fault after decoding; xor of a value with
itself gives 0 with ZF = 1, SF = 0 and PF = 1 (43_logic.md R122). -/
def Obligations.LogicFamilyLaws : Prop :=
  (∀ (w : Width) (src dest : Port) (s : State),
    (∃ F r, exec (.and src dest w.field) s = .next (succeeded s F r) ∧ F.cf = .zero ∧ F.of = .zero ∧
      ∀ i, r.getLsbD i = (decide (i < w.bits) && (src.getLsbD i && dest.getLsbD i))) ∧
    (∃ F r, exec (.or src dest w.field) s = .next (succeeded s F r) ∧ F.cf = .zero ∧ F.of = .zero ∧
      ∀ i, r.getLsbD i = (decide (i < w.bits) && (src.getLsbD i || dest.getLsbD i))) ∧
    ∃ F r, exec (.xor src dest w.field) s = .next (succeeded s F r) ∧ F.cf = .zero ∧ F.of = .zero ∧
      ∀ i, r.getLsbD i = (decide (i < w.bits) && (src.getLsbD i ^^ dest.getLsbD i))) ∧
  ∀ (w : Width) (dest : Port) (s : State),
    exec (.xor dest dest w.field) s = .next (succeeded s ⟨.zero, .one, .one, .zero, .zero⟩ 0#64)

/-! ### Shifts -/

/-- CF after a shift by n, 1 to 31, is the last bit shifted out, position by position
(40_units.md R105). -/
def Obligations.ShiftCarryIsLastBitOut : Prop :=
  ∀ (w : Width) (src dest : Port) (s : State),
    let n := src.toNat % 32
    1 ≤ n →
    (∃ t, exec (.shl src dest w.field) s = .next t ∧
      t.flags.cf = .ofBool (if n ≤ w.bits then dest.getLsbD (w.bits - n) else false)) ∧
    (∃ t, exec (.sal src dest w.field) s = .next t ∧
      t.flags.cf = .ofBool (if n ≤ w.bits then dest.getLsbD (w.bits - n) else false)) ∧
    (∃ t, exec (.shr src dest w.field) s = .next t ∧
      t.flags.cf = .ofBool (if n ≤ w.bits then dest.getLsbD (n - 1) else false)) ∧
    ∃ t, exec (.sar src dest w.field) s = .next t ∧
      t.flags.cf = .ofBool (if n ≤ w.bits - 1 then dest.getLsbD (n - 1) else dest.getLsbD (w.bits - 1))

/-- A shift by n, 1 to 31, multiplies by 2^n modulo 2^w, or divides by 2^n rounding down (sar on the
signed reading), and leaves OF undefined (44_shift.md R128, 40_units.md R101). -/
def Obligations.ShiftValuesAndUndefinedOverflow : Prop :=
  ∀ (w : Width) (src dest : Port) (s : State),
    let n := src.toNat % 32
    1 ≤ n →
    (∃ F, exec (.shl src dest w.field) s = .next (succeeded s F
      (BitVec.ofNat 64 (unsignedAt w dest * 2 ^ n % 2 ^ w.bits))) ∧ F.of = .undef) ∧
    (∃ F, exec (.sal src dest w.field) s = .next (succeeded s F
      (BitVec.ofNat 64 (unsignedAt w dest * 2 ^ n % 2 ^ w.bits))) ∧ F.of = .undef) ∧
    (∃ F, exec (.shr src dest w.field) s = .next (succeeded s F
      (BitVec.ofNat 64 (unsignedAt w dest / 2 ^ n))) ∧ F.of = .undef) ∧
    ∃ F, exec (.sar src dest w.field) s = .next (succeeded s F
      (BitVec.ofInt 64 (signedAt w dest / 2 ^ n % 2 ^ w.bits))) ∧ F.of = .undef

/-- A shift whose count is 0 modulo 32 returns the low w bits of dest and writes no flag
(44_shift.md R123, 40_units.md R102). -/
def Obligations.ShiftByZeroOnlyMasks : Prop :=
  ∀ (w : Width) (src dest : Port) (s : State), src.toNat % 32 = 0 →
    let t := succeeded s s.flags (BitVec.ofNat 64 (unsignedAt w dest))
    exec (.shl src dest w.field) s = .next t ∧ exec (.shr src dest w.field) s = .next t ∧
    exec (.sar src dest w.field) s = .next t ∧ exec (.sal src dest w.field) s = .next t

/-- sal is shl on the same inputs, under its own operation code (44_shift.md R127). -/
def Obligations.SalIsShl : Prop :=
  ∀ (src dest : Port) (width : BitVec 6) (s : State),
    exec (.sal src dest width) s = exec (.shl src dest width) s ∧
    (encode (.sal src dest width)).cw = BitVec.ofNat 16 (width.toNat * 32 + 16) ∧
    exec (.sal 0x1#64 0xC0#64 8#6) s =
      .next (succeeded s ⟨.one, .zero, .zero, .one, .undef⟩ 0x80#64)

/-! ### The sub-units and the ports -/

/-- The sign of the sign-extended view is bit w−1, and unsigned comparisons of two such views are
comparisons of the w-bit values (40_units.md R83). -/
def Obligations.SignExtendedViewsKeepOrder : Prop :=
  ∀ (w : Width) (a b : Word),
    sign (sx a w) = a.getLsbD (w.bits - 1) ∧
    (sx a w).ult (sx b w) = (mask a w).ult (mask b w) ∧
    (sx a w).ule (sx b w) = (mask a w).ule (mask b w) ∧
    (sx b w).ult (sx a w) = (mask b w).ult (mask a w) ∧
    (sx b w).ule (sx a w) = (mask b w).ule (mask a w)

/-- The common flags of a raw result: PF its even parity in 8 bits, from the raw or the masked result, ZF
whether its low w bits are 0, SF its bit w−1 (40_units.md R86 to R88). -/
def Obligations.CommonFlagsOfRawResult : Prop :=
  (∀ (w : Width) (r : Word),
    parityFlag r = evenParity r.toNat ∧ parityFlag (mask r w) = parityFlag r ∧
    zeroFlag r w = decide (r.toNat % 2 ^ w.bits = 0) ∧
    signFlag r w = sign (sx r w) ∧ signFlag r w = r.getLsbD (w.bits - 1)) ∧
  parityFlag 0x03#32 = true ∧ parityFlag 0x01#32 = false ∧ parityFlag 0x00#32 = true ∧
  parityFlag 0x100#32 = true ∧ zeroFlag 0x100#32 .w8 = true ∧ zeroFlag 0x100#32 .w16 = false ∧
  signFlag 0x80#32 .w8 = true ∧ signFlag 0x80#32 .w16 = false

/-- FLAGS shows the flags that are 1 and FLAGS_DEF those that are not `U`, at bits 0, 2, 6, 7 and 11; every
other bit reads 0 (10_state.md R29). -/
def Obligations.FlagPortsShowTheFlags : Prop :=
  ∀ (F : Flags) (i : Nat),
    ((flagsPort F).getLsbD i = true ↔
      i = 0 ∧ F.cf = .one ∨ i = 2 ∧ F.pf = .one ∨ i = 6 ∧ F.zf = .one ∨ i = 7 ∧ F.sf = .one ∨
        i = 11 ∧ F.of = .one) ∧
    ((flagsDefPort F).getLsbD i = true ↔
      i = 0 ∧ F.cf ≠ .undef ∨ i = 2 ∧ F.pf ≠ .undef ∨ i = 6 ∧ F.zf ≠ .undef ∨
        i = 7 ∧ F.sf ≠ .undef ∨ i = 11 ∧ F.of ≠ .undef)

/-! ### The invariant -/

/-- Every step of a run without host flag writes keeps PF, ZF and SF coherent and the fault record in step
with the FAULT port (40_units.md R86 to R88; 10_state.md R24, R25; 60_exceptions.md R140). -/
def Obligations.EveryStepKeepsFlagsCoherent : Prop :=
  ∀ s t : State, Inv s → step s = .next t → Inv t

/-- The invariant holds at reset; it rests on the model's empty list of moves and its answer before the
first request too (log 2, log 4). -/
def Obligations.ResetMeetsFlagCoherence : Prop := Inv State.reset
end

