-- ==== Sys2Proof/Laws/Operands.lean ====
section
/-!
SUPPORT. The width_mask_unit and the operand reads in terms of bits and of numbers.
-/

namespace Sys2Proof.Machine

open Sys2Proof

theorem Width.bits_pos (w : Width) : 0 < w.bits := by cases w <;> decide
theorem Width.bits_le (w : Width) : w.bits ≤ 32 := by cases w <;> decide

/-- Bit i of a masked value (40_units.md R79). -/
theorem mask_getLsbD (v : Word) (w : Width) (i : Nat) :
    (mask v w).getLsbD i = (decide (i < w.bits) && v.getLsbD i) := by
  have h : w.bits ≤ 32 := Width.bits_le w
  rw [mask, widthMask, BitVec.getLsbD_and, BitVec.getLsbD_ofNat, Nat.testBit_two_pow_sub_one]
  by_cases hi : i < w.bits
  · simp [hi, show i < 32 by omega]
  · simp [hi]

/-- A masked value as a number. -/
theorem mask_toNat (v : Word) (w : Width) : (mask v w).toNat = v.toNat % 2 ^ w.bits := by
  cases w <;>
    simp only [mask, widthMask, Width.bits, BitVec.toNat_and, BitVec.toNat_ofNat] <;>
    simp only [show (2 ^ 8 - 1) % 2 ^ 32 = 2 ^ 8 - 1 by decide,
      show (2 ^ 16 - 1) % 2 ^ 32 = 2 ^ 16 - 1 by decide,
      show (2 ^ 32 - 1) % 2 ^ 32 = 2 ^ 32 - 1 by decide, Nat.and_two_pow_sub_one_eq_mod]

/-- Bit i of a sign-extended view: bits from w−1 up are copies of bit w−1 (40_units.md R81). -/
theorem sx_getLsbD (v : Word) (w : Width) {i : Nat} (hi : i < 32) :
    (sx v w).getLsbD i = v.getLsbD (min i (w.bits - 1)) := by
  have hp : 0 < w.bits := Width.bits_pos w
  have hm : (widthMask w).getLsbD i = decide (i < w.bits) := by
    rw [widthMask, BitVec.getLsbD_ofNat, Nat.testBit_two_pow_sub_one]
    simp [hi]
  have hu : (mask v w ||| ~~~(widthMask w)).getLsbD i =
      (decide (i < w.bits) && v.getLsbD i || !decide (i < w.bits)) := by
    rw [BitVec.getLsbD_or, BitVec.getLsbD_not, mask_getLsbD, hm, decide_eq_true hi, Bool.true_and]
  unfold sx
  by_cases hlt : i < w.bits
  · rw [show min i (w.bits - 1) = i by omega]
    split
    · rw [hu, decide_eq_true hlt]; simp only [Bool.true_and, Bool.not_true, Bool.or_false]
    · rw [mask_getLsbD, decide_eq_true hlt, Bool.true_and]
  · rw [show min i (w.bits - 1) = w.bits - 1 by omega]
    split
    · next h => rw [hu, h, decide_eq_false hlt]; rfl
    · next h => rw [mask_getLsbD, decide_eq_false hlt, Bool.false_and, Bool.eq_false_iff.mpr h]

/-- The 32-bit operand as a number. -/
theorem operand_toNat (p : Port) : (operand p).toNat = p.toNat % 2 ^ 32 := by
  simp [operand]

/-- The shift count as a number (30_encoding.md R69). -/
theorem shiftCount_eq (src : Port) : shiftCount src = src.toNat % 32 := by
  simp [shiftCount]

theorem shiftCount_lt (src : Port) : shiftCount src < 32 := by
  rw [shiftCount_eq]; omega

/-- The masked operand as a number: the low w bits of the port. -/
theorem mask_operand_toNat (p : Port) (w : Width) :
    (mask (operand p) w).toNat = p.toNat % 2 ^ w.bits := by
  rw [mask_toNat, operand_toNat, Nat.mod_mod_of_dvd]
  exact Nat.pow_dvd_pow 2 (Width.bits_le w)

/-- A masked result on the RESULT port as a number. -/
theorem resultMasked_toNat (r : Word) (w : Width) :
    (resultMasked r w).toNat = r.toNat % 2 ^ w.bits := by
  have := Nat.mod_le r.toNat (2 ^ w.bits)
  have := r.isLt
  rw [resultMasked, resultHost, BitVec.toNat_setWidth, mask_toNat, Nat.mod_eq_of_lt]
  omega

/-- The adder as a number (40_units.md R84). -/
theorem carryPropagator_toNat (a b : Word) (c : Bool) :
    (carryPropagator a b c).toNat = (a.toNat + b.toNat + c.toNat) % 2 ^ 32 := by
  cases c <;> simp [carryPropagator, BitVec.toNat_add]

/-- What each flag of a derived flags register is (40_units.md R85). -/
@[simp] theorem resultFlags_cf (r : Word) (w : Width) (cf of : Flag) :
    (resultFlags r w cf of).cf = cf := rfl
@[simp] theorem resultFlags_pf (r : Word) (w : Width) (cf of : Flag) :
    (resultFlags r w cf of).pf = .ofBool (parityFlag r) := rfl
@[simp] theorem resultFlags_zf (r : Word) (w : Width) (cf of : Flag) :
    (resultFlags r w cf of).zf = .ofBool (zeroFlag r w) := rfl
@[simp] theorem resultFlags_sf (r : Word) (w : Width) (cf of : Flag) :
    (resultFlags r w cf of).sf = .ofBool (signFlag r w) := rfl
@[simp] theorem resultFlags_of (r : Word) (w : Width) (cf of : Flag) :
    (resultFlags r w cf of).of = of := rfl

@[simp] theorem mulFlags_cf (F : Flags) (p : Port) (w : Width) :
    (mulFlags F p w).cf = .ofBool (productHigh p w) := rfl
@[simp] theorem mulFlags_pf (F : Flags) (p : Port) (w : Width) : (mulFlags F p w).pf = F.pf := rfl
@[simp] theorem mulFlags_zf (F : Flags) (p : Port) (w : Width) : (mulFlags F p w).zf = F.zf := rfl
@[simp] theorem mulFlags_sf (F : Flags) (p : Port) (w : Width) : (mulFlags F p w).sf = F.sf := rfl
@[simp] theorem mulFlags_of (F : Flags) (p : Port) (w : Width) :
    (mulFlags F p w).of = .ofBool (productHigh p w) := rfl

end Sys2Proof.Machine
end

