-- ==== Sys2Proof/Laws/State.lean ====
section
/-!
SUPPORT. What each named update of State leaves in each field, so that no proof unfolds a record update.
-/

namespace Sys2Proof.Machine

open Sys2Proof

variable (s : State)

@[simp] theorem State.afterResult_flags (F : Flags) (result : Port) :
    (s.afterResult F result).flags = F := rfl
@[simp] theorem State.afterResult_faults (F : Flags) (result : Port) :
    (s.afterResult F result).faults = s.faults := rfl
@[simp] theorem State.afterResult_response (F : Flags) (result : Port) :
    (s.afterResult F result).response = .ok result := rfl
@[simp] theorem State.afterResult_impl (F : Flags) (result : Port) :
    (s.afterResult F result).impl = s.impl := rfl
@[simp] theorem State.afterResult_pending (F : Flags) (result : Port) :
    (s.afterResult F result).pending = s.pending := rfl

@[simp] theorem State.afterFault_flags (f : Fault) :
    (s.afterFault f).flags = s.flags := rfl
@[simp] theorem State.afterFault_faults (f : Fault) :
    (s.afterFault f).faults = s.faults ++ [f] := rfl
@[simp] theorem State.afterFault_response (f : Fault) :
    (s.afterFault f).response = .fault f := rfl
@[simp] theorem State.afterFault_impl (f : Fault) :
    (s.afterFault f).impl = s.impl := rfl
@[simp] theorem State.afterFault_pending (f : Fault) :
    (s.afterFault f).pending = s.pending := rfl

@[simp] theorem State.afterHostWrite_flags (w : FlagWrite) :
    (s.afterHostWrite w).flags = hostWriteFlags s.flags w := rfl
@[simp] theorem State.afterHostWrite_faults (w : FlagWrite) :
    (s.afterHostWrite w).faults = s.faults := rfl
@[simp] theorem State.afterHostWrite_response (w : FlagWrite) :
    (s.afterHostWrite w).response = s.response := rfl
@[simp] theorem State.afterHostWrite_impl (w : FlagWrite) :
    (s.afterHostWrite w).impl = s.impl := rfl
@[simp] theorem State.afterHostWrite_pending (w : FlagWrite) :
    (s.afterHostWrite w).pending = s.pending := rfl

@[simp] theorem State.withMoves_flags (moves : List HostMove) :
    (s.withMoves moves).flags = s.flags := rfl
@[simp] theorem State.withMoves_faults (moves : List HostMove) :
    (s.withMoves moves).faults = s.faults := rfl
@[simp] theorem State.withMoves_response (moves : List HostMove) :
    (s.withMoves moves).response = s.response := rfl
@[simp] theorem State.withMoves_impl (moves : List HostMove) :
    (s.withMoves moves).impl = s.impl := rfl
@[simp] theorem State.withMoves_pending (moves : List HostMove) :
    (s.withMoves moves).pending = moves := rfl

@[simp] theorem State.withFetchWord_flags (nbits w : Nat) :
    (s.withFetchWord nbits w).flags = s.flags := rfl
@[simp] theorem State.withFetchWord_faults (nbits w : Nat) :
    (s.withFetchWord nbits w).faults = s.faults := rfl
@[simp] theorem State.withFetchWord_response (nbits w : Nat) :
    (s.withFetchWord nbits w).response = s.response := rfl
@[simp] theorem State.withFetchWord_impl (nbits w : Nat) :
    (s.withFetchWord nbits w).impl = s.impl := rfl
@[simp] theorem State.withFetchWord_pending (nbits w : Nat) :
    (s.withFetchWord nbits w).pending = .request (Request.ofTableWord nbits w) :: s.pending := rfl

@[simp] theorem State.reset_flags : State.reset.flags = ⟨.undef, .undef, .undef, .undef, .undef⟩ := rfl
@[simp] theorem State.reset_faults : State.reset.faults = [] := rfl
@[simp] theorem State.reset_response : State.reset.response = .none := rfl
@[simp] theorem State.reset_impl : State.reset.impl = .localImpl := rfl
@[simp] theorem State.reset_pending : State.reset.pending = [] := rfl

@[simp] theorem hostWriteFlags_cf (F : Flags) (w : FlagWrite) :
    (hostWriteFlags F w).cf = F.cf.hostWrite w.cf := rfl
@[simp] theorem hostWriteFlags_pf (F : Flags) (w : FlagWrite) :
    (hostWriteFlags F w).pf = F.pf.hostWrite w.pf := rfl
@[simp] theorem hostWriteFlags_zf (F : Flags) (w : FlagWrite) :
    (hostWriteFlags F w).zf = F.zf.hostWrite w.zf := rfl
@[simp] theorem hostWriteFlags_sf (F : Flags) (w : FlagWrite) :
    (hostWriteFlags F w).sf = F.sf.hostWrite w.sf := rfl
@[simp] theorem hostWriteFlags_of (F : Flags) (w : FlagWrite) :
    (hostWriteFlags F w).of = F.of.hostWrite w.of := rfl

@[simp] theorem Flag.hostWrite_none (old : Flag) : old.hostWrite none = old := rfl
@[simp] theorem Flag.hostWrite_some (old : Flag) (b : Bool) : old.hostWrite (some b) = .ofBool b := rfl
@[simp] theorem Flag.ofBool_true : Flag.ofBool true = .one := rfl
@[simp] theorem Flag.ofBool_false : Flag.ofBool false = .zero := rfl

/-- A computed flag is never `U`. -/
@[simp] theorem Flag.ofBool_ne_undef (b : Bool) : Flag.ofBool b ≠ .undef := by cases b <;> decide

theorem Flag.ofBool_eq_one (b : Bool) : Flag.ofBool b = .one ↔ b = true := by cases b <;> decide
theorem Flag.ofBool_eq_zero (b : Bool) : Flag.ofBool b = .zero ↔ b = false := by cases b <;> decide

end Sys2Proof.Machine
end

