-- ==== Sys2Proof/Laws/Ops.lean ====
section
/-!
SUPPORT. What the shared operations can do, said once, so that a proof cites the lemma and does not
unfold the operation: how a request ends, the four checks, and every meaning of `exec`.
-/

namespace Sys2Proof.Machine

open Sys2Proof

theorem complete_eq (F : Flags) (result : Port) (s : State) :
    complete F result s = .next (s.afterResult F result) := rfl

theorem raiseFault_eq (f : Fault) (s : State) : raiseFault f s = .next (s.afterFault f) := rfl

/-- How every request that is not refused ends: with a result or with a fault, in a next state that
differs from `s` in nothing else. -/
inductive Ends (s : State) : Host.Outcome State Fault Refusal → Prop where
  | result (F : Flags) (result : Port) : Ends s (.next (s.afterResult F result))
  | fault (f : Fault) : Ends s (.next (s.afterFault f))

theorem ends_complete (F : Flags) (result : Port) (s : State) : Ends s (complete F result s) :=
  .result F result

theorem ends_raiseFault (f : Fault) (s : State) : Ends s (raiseFault f s) := .fault f

/-- The WIDTH field of a width selects that width. -/
@[simp] theorem ofField_field (w : Width) : Width.ofField w.field = some w := by cases w <;> rfl

/-- A WIDTH field selects a width exactly when it is legal. -/
theorem ofField_isSome (width : BitVec 6) : (Width.ofField width).isSome = legalWidth width := by
  revert width; decide

/-- A WIDTH field that selects a width is that width's field. -/
theorem field_of_ofField {width : BitVec 6} {w : Width} (h : Width.ofField width = some w) :
    width = w.field := by
  revert h; revert w width; decide

@[simp] theorem withWidth_field (w : Width) (s : State)
    (body : Width → Host.Outcome State Fault Refusal) : withWidth w.field s body = body w := by
  simp [withWidth]

theorem withWidth_illegal {width : BitVec 6} (h : legalWidth width = false) (s : State)
    (body : Width → Host.Outcome State Fault Refusal) :
    withWidth width s body = raiseFault .invalidWidth s := by
  rw [← ofField_isSome] at h
  simp [withWidth, Option.isSome_eq_false_iff.mp h |> Option.isNone_iff_eq_none.mp]

theorem ends_withWidth (width : BitVec 6) {s : State}
    {body : Width → Host.Outcome State Fault Refusal} (h : ∀ w, Ends s (body w)) :
    Ends s (withWidth width s body) := by
  unfold withWidth
  split
  · exact h _
  · exact ends_raiseFault _ _

theorem withCarry_of_bool {s : State} {c : Bool} (h : s.flags.cf = .ofBool c)
    (body : Bool → Host.Outcome State Fault Refusal) : withCarry s body = body c := by
  cases c <;> simp_all [withCarry]

theorem withCarry_undef {s : State} (h : s.flags.cf = .undef)
    (body : Bool → Host.Outcome State Fault Refusal) :
    withCarry s body = raiseFault .undefinedFlagRead s := by
  simp [withCarry, h]

theorem ends_withCarry {s : State} {body : Bool → Host.Outcome State Fault Refusal}
    (h : ∀ c, Ends s (body c)) : Ends s (withCarry s body) := by
  unfold withCarry
  split
  · exact h _
  · exact h _
  · exact ends_raiseFault _ _

theorem withDivisor_zero (s : State) (body : Host.Outcome State Fault Refusal) :
    withDivisor 0#64 s body = raiseFault .divideByZero s := rfl

theorem withDivisor_ne {src : Port} (h : src ≠ 0#64) (s : State)
    (body : Host.Outcome State Fault Refusal) : withDivisor src s body = body := if_neg h

theorem ends_withDivisor (src : Port) {s : State} {body : Host.Outcome State Fault Refusal}
    (h : Ends s body) : Ends s (withDivisor src s body) := by
  unfold withDivisor
  split
  · exact ends_raiseFault _ _
  · exact h

theorem withSignedQuotient_ne {src dest : Port}
    (h : ¬(dest = 0x8000000000000000#64 ∧ src = 0xFFFFFFFFFFFFFFFF#64)) (s : State)
    (body : Host.Outcome State Fault Refusal) : withSignedQuotient src dest s body = body := if_neg h

theorem ends_withSignedQuotient (src dest : Port) {s : State}
    {body : Host.Outcome State Fault Refusal} (h : Ends s body) :
    Ends s (withSignedQuotient src dest s body) := by
  unfold withSignedQuotient
  split
  · exact ends_raiseFault _ _
  · exact h

theorem ends_subtract (src dest : Port) (w : Width) (s : State) : Ends s (subtract src dest w s) :=
  ends_complete _ _ _

theorem ends_logicResult (r : Word) (w : Width) (s : State) : Ends s (logicResult r w s) :=
  ends_complete _ _ _

theorem ends_shiftBy (src dest : Port) (w : Width) (raw : Nat → Word) (carry : Nat → Bool)
    (s : State) : Ends s (shiftBy src dest w raw carry s) := by
  unfold shiftBy
  dsimp only
  split <;> exact ends_complete _ _ _

theorem ends_shiftLeft (src dest : Port) (w : Width) (s : State) : Ends s (shiftLeft src dest w s) := by
  unfold shiftLeft
  exact ends_shiftBy _ _ _ _ _ _

/-- Every operation ends with a result or a fault and touches nothing but F, FAULTS and the answer. -/
theorem exec_ends (i : Instr) (s : State) : Ends s (exec i s) := by
  cases i with
  | add => exact ends_withWidth _ fun _ => ends_complete _ _ _
  | adc => exact ends_withWidth _ fun _ => ends_withCarry fun _ => ends_complete _ _ _
  | sub => exact ends_withWidth _ fun _ => ends_subtract _ _ _ _
  | sbb =>
    refine ends_withWidth _ fun _ => ends_withCarry fun c => ?_
    cases c
    · exact ends_subtract _ _ _ _
    · exact ends_complete _ _ _
  | mul => exact ends_withWidth _ fun _ => ends_complete _ _ _
  | imul => exact ends_withWidth _ fun _ => ends_complete _ _ _
  | div => exact ends_withWidth _ fun _ => ends_withDivisor _ (ends_complete _ _ _)
  | idiv =>
    exact ends_withWidth _ fun _ => ends_withDivisor _ (ends_withSignedQuotient _ _ (ends_complete _ _ _))
  | mod => exact ends_withDivisor _ (ends_complete _ _ _)
  | imod => exact ends_withDivisor _ (ends_withSignedQuotient _ _ (ends_complete _ _ _))
  | and => exact ends_withWidth _ fun _ => ends_logicResult _ _ _
  | or => exact ends_withWidth _ fun _ => ends_logicResult _ _ _
  | xor => exact ends_withWidth _ fun _ => ends_logicResult _ _ _
  | shl => exact ends_withWidth _ fun _ => ends_shiftLeft _ _ _ _
  | shr => exact ends_withWidth _ fun _ => ends_shiftBy _ _ _ _ _ _
  | sar => exact ends_withWidth _ fun _ => ends_shiftBy _ _ _ _ _ _
  | sal => exact ends_withWidth _ fun _ => ends_shiftLeft _ _ _ _

/-- One request under the local implementation ends with a result or a fault. -/
theorem issue_ends (r : Request) {s : State} (h : s.impl = .localImpl) : Ends s (issue r s) := by
  unfold issue
  rw [h]
  dsimp only
  split
  · exact ends_raiseFault _ _
  · exact exec_ends _ _

/-- What a step can do: idle, one flag write of the host, or one request. -/
theorem step_cases (s : State) :
    (s.pending = [] ∧ step s = .next s) ∨
    (∃ w rest, s.pending = .writeFlags w :: rest ∧
      step s = .next ((s.withMoves rest).afterHostWrite w)) ∨
    (∃ r rest, s.pending = .request r :: rest ∧ step s = issue r (s.withMoves rest)) := by
  unfold step takeTurn
  rcases h : s.pending with _ | ⟨m, rest⟩
  · exact .inl ⟨rfl, rfl⟩
  · cases m with
    | request r => exact .inr (.inr ⟨r, rest, rfl, rfl⟩)
    | writeFlags w => exact .inr (.inl ⟨w, rest, rfl, rfl⟩)

end Sys2Proof.Machine
end

