-- ==== Sys2Proof/Laws/PerInstr.lean ====
section
/-!
SUPPORT. The per-instruction family EncodedFields: what the control word of an encoded operation holds
in each of its fields, and that the operand ports carry the operands (30_encoding.md R59 to R63).
-/

namespace Sys2Proof.Laws

open Sys2Proof

/-- The three fields of a control word that was put together from WIDTH and OP (30_encoding.md R59). -/
theorem controlWord_fields (width : BitVec 6) (op : BitVec 5) :
    cwRsv (controlWord width op) = 0#5 ∧ cwWidth (controlWord width op) = width ∧
      cwOp (controlWord width op) = op := by
  refine ⟨?_, ?_, ?_⟩ <;> apply BitVec.eq_of_getLsbD_eq <;> intro i hi
  · have hw : width.getLsbD (11 + i - 5) = false := BitVec.getLsbD_of_ge _ _ (by omega)
    have ho : op.getLsbD (11 + i) = false := BitVec.getLsbD_of_ge _ _ (by omega)
    simp [cwRsv, controlWord, hw, ho]
  · have ho : op.getLsbD (5 + i) = false := BitVec.getLsbD_of_ge _ _ (by omega)
    simp [cwWidth, controlWord, hi, show 5 + i < 16 by omega]
  · simp [cwOp, controlWord, hi, show i < 16 by omega]

end Sys2Proof.Laws

namespace Sys2Proof.Laws.EncodedFields

open Sys2Proof

/-- The operation code of an operation (30_encoding.md R63). -/
def opcode : Instr → BitVec 5
  | .add _ _ _ => 0#5
  | .adc _ _ _ => 1#5
  | .sub _ _ _ => 2#5
  | .sbb _ _ _ => 3#5
  | .mul _ _ _ => 4#5
  | .imul _ _ _ => 5#5
  | .div _ _ _ => 6#5
  | .idiv _ _ _ => 7#5
  | .mod _ _ _ => 8#5
  | .imod _ _ _ => 9#5
  | .and _ _ _ => 10#5
  | .or _ _ _ => 11#5
  | .xor _ _ _ => 12#5
  | .shl _ _ _ => 13#5
  | .shr _ _ _ => 14#5
  | .sar _ _ _ => 15#5
  | .sal _ _ _ => 16#5

/-- The operands and the WIDTH field of an operation. -/
def fields : Instr → Port × Port × BitVec 6
  | .add src dest width => (src, dest, width)
  | .adc src dest width => (src, dest, width)
  | .sub src dest width => (src, dest, width)
  | .sbb src dest width => (src, dest, width)
  | .mul src dest width => (src, dest, width)
  | .imul src dest width => (src, dest, width)
  | .div src dest width => (src, dest, width)
  | .idiv src dest width => (src, dest, width)
  | .mod src dest width => (src, dest, width)
  | .imod src dest width => (src, dest, width)
  | .and src dest width => (src, dest, width)
  | .or src dest width => (src, dest, width)
  | .xor src dest width => (src, dest, width)
  | .shl src dest width => (src, dest, width)
  | .shr src dest width => (src, dest, width)
  | .sar src dest width => (src, dest, width)
  | .sal src dest width => (src, dest, width)

/-- The encoded operation has RSV 0, its own code in OP, its width in WIDTH and its operands on the ports. -/
def Statement (i : Instr) : Prop :=
  cwRsv (encode i).cw = 0#5 ∧ cwOp (encode i).cw = opcode i ∧
    ((encode i).src, (encode i).dest, cwWidth (encode i).cw) = fields i

/-- The statement from the control word an encoding is made with. -/
theorem of_controlWord {i : Instr} {src dest : Port} {width : BitVec 6}
    (he : encode i = ⟨controlWord width (opcode i), src, dest⟩) (hf : fields i = (src, dest, width)) :
    Statement i := by
  obtain ⟨h0, h1, h2⟩ := controlWord_fields width (opcode i)
  rw [Statement, he, hf]
  exact ⟨h0, h2, by rw [h1]⟩

theorem add (src dest : Port) (width : BitVec 6) : Statement (.add src dest width) :=
  of_controlWord rfl rfl
theorem adc (src dest : Port) (width : BitVec 6) : Statement (.adc src dest width) :=
  of_controlWord rfl rfl
theorem sub (src dest : Port) (width : BitVec 6) : Statement (.sub src dest width) :=
  of_controlWord rfl rfl
theorem sbb (src dest : Port) (width : BitVec 6) : Statement (.sbb src dest width) :=
  of_controlWord rfl rfl
theorem mul (src dest : Port) (width : BitVec 6) : Statement (.mul src dest width) :=
  of_controlWord rfl rfl
theorem imul (src dest : Port) (width : BitVec 6) : Statement (.imul src dest width) :=
  of_controlWord rfl rfl
theorem div (src dest : Port) (width : BitVec 6) : Statement (.div src dest width) :=
  of_controlWord rfl rfl
theorem idiv (src dest : Port) (width : BitVec 6) : Statement (.idiv src dest width) :=
  of_controlWord rfl rfl
theorem mod (src dest : Port) (width : BitVec 6) : Statement (.mod src dest width) :=
  of_controlWord rfl rfl
theorem imod (src dest : Port) (width : BitVec 6) : Statement (.imod src dest width) :=
  of_controlWord rfl rfl
theorem and (src dest : Port) (width : BitVec 6) : Statement (.and src dest width) :=
  of_controlWord rfl rfl
theorem or (src dest : Port) (width : BitVec 6) : Statement (.or src dest width) :=
  of_controlWord rfl rfl
theorem xor (src dest : Port) (width : BitVec 6) : Statement (.xor src dest width) :=
  of_controlWord rfl rfl
theorem shl (src dest : Port) (width : BitVec 6) : Statement (.shl src dest width) :=
  of_controlWord rfl rfl
theorem shr (src dest : Port) (width : BitVec 6) : Statement (.shr src dest width) :=
  of_controlWord rfl rfl
theorem sar (src dest : Port) (width : BitVec 6) : Statement (.sar src dest width) :=
  of_controlWord rfl rfl
theorem sal (src dest : Port) (width : BitVec 6) : Statement (.sal src dest width) :=
  of_controlWord rfl rfl

end Sys2Proof.Laws.EncodedFields
end

