-- ==== Sys2Proof/Tests/Slice0.lean ====
section
/-!
SUPPORT. Small tests. Every expected value of a vector comes from 95_test_vectors.md (the id stands in
its comment), every word is written out from 30_encoding.md R59 and R63, and each `test_witness_<Name>`
shows a state and operands that meet the hypotheses of the obligation <Name> together.
-/

namespace Sys2Proof.Tests

open Sys2Proof Sys2Proof.Machine Sys2Proof.Safety

/-! ### WellFormed -/

theorem test_wellFormed_refuses_bad_width :
    [Instr.add 1 1 0, .adc 1 1 12, .sub 1 1 33, .sbb 1 1 7, .mul 1 1 9, .imul 1 1 15, .div 1 1 5,
      .idiv 1 1 12, .and 1 1 17, .or 1 1 31, .xor 1 1 63, .shl 1 1 24, .shr 1 1 1, .sar 1 1 4,
      .sal 1 1 64].all (fun i => !i.wellFormed) = true := by decide

theorem test_wellFormed_takes_legal_width :
    (Instr.add 1 1 8).wellFormed = true ∧ (Instr.sal 1 1 32).wellFormed = true ∧
      (Instr.mod 1 1 5).wellFormed = true ∧ (Instr.imod 1 1 0).wellFormed = true := by decide

/-! ### Decode: `rrrrrwwwwwwooooo`, most significant bit first -/

theorem test_decode_add :
    decode ⟨0b00000_001000_00000#16, 3#64, 5#64⟩ = .ok (.add 3#64 5#64 0b001000#6) := by decide
theorem test_decode_adc :
    decode ⟨0b00000_010000_00001#16, 3#64, 5#64⟩ = .ok (.adc 3#64 5#64 0b010000#6) := by decide
theorem test_decode_sub :
    decode ⟨0b00000_100000_00010#16, 3#64, 5#64⟩ = .ok (.sub 3#64 5#64 0b100000#6) := by decide
theorem test_decode_sbb :
    decode ⟨0b00000_001000_00011#16, 3#64, 5#64⟩ = .ok (.sbb 3#64 5#64 0b001000#6) := by decide
theorem test_decode_mul :
    decode ⟨0b00000_010000_00100#16, 3#64, 5#64⟩ = .ok (.mul 3#64 5#64 0b010000#6) := by decide
theorem test_decode_imul :
    decode ⟨0b00000_100000_00101#16, 3#64, 5#64⟩ = .ok (.imul 3#64 5#64 0b100000#6) := by decide
theorem test_decode_div :
    decode ⟨0b00000_001000_00110#16, 3#64, 5#64⟩ = .ok (.div 3#64 5#64 0b001000#6) := by decide
theorem test_decode_idiv :
    decode ⟨0b00000_010000_00111#16, 3#64, 5#64⟩ = .ok (.idiv 3#64 5#64 0b010000#6) := by decide
theorem test_decode_mod :
    decode ⟨0b00000_001100_01000#16, 3#64, 5#64⟩ = .ok (.mod 3#64 5#64 0b001100#6) := by decide
theorem test_decode_imod :
    decode ⟨0b00000_001100_01001#16, 3#64, 5#64⟩ = .ok (.imod 3#64 5#64 0b001100#6) := by decide
theorem test_decode_and :
    decode ⟨0b00000_010000_01010#16, 3#64, 5#64⟩ = .ok (.and 3#64 5#64 0b010000#6) := by decide
theorem test_decode_or :
    decode ⟨0b00000_100000_01011#16, 3#64, 5#64⟩ = .ok (.or 3#64 5#64 0b100000#6) := by decide
theorem test_decode_xor :
    decode ⟨0b00000_001000_01100#16, 3#64, 5#64⟩ = .ok (.xor 3#64 5#64 0b001000#6) := by decide
theorem test_decode_shl :
    decode ⟨0b00000_010000_01101#16, 3#64, 5#64⟩ = .ok (.shl 3#64 5#64 0b010000#6) := by decide
theorem test_decode_shr :
    decode ⟨0b00000_100000_01110#16, 3#64, 5#64⟩ = .ok (.shr 3#64 5#64 0b100000#6) := by decide
theorem test_decode_sar :
    decode ⟨0b00000_001000_01111#16, 3#64, 5#64⟩ = .ok (.sar 3#64 5#64 0b001000#6) := by decide
theorem test_decode_sal :
    decode ⟨0b00000_010000_10000#16, 3#64, 5#64⟩ = .ok (.sal 3#64 5#64 0b010000#6) := by decide

theorem test_decode_refuses_by_name :
    decode ⟨0b00001_001000_00000#16, 3#64, 5#64⟩ = .error .reservedControlBits ∧
      decode ⟨0b10000_001000_10001#16, 3#64, 5#64⟩ = .error .reservedControlBits ∧
      decode ⟨0b00000_001000_10001#16, 3#64, 5#64⟩ = .error .illegalOp ∧
      decode ⟨0b00000_001000_11111#16, 3#64, 5#64⟩ = .error .illegalOp := by decide

theorem test_decodeTableWord :
    decodeTableWord 16 0x0107 = some (.idiv 0 0 8) ∧ decodeTableWord 16 0x0011 = none ∧
      decodeTableWord 16 0x0008 = some (.mod 0 0 0) := by decide

/-! ### One request, by 95_test_vectors.md -/

/-- The next state, where there is one. -/
def endState : Host.Outcome State Fault Refusal → Option State
  | .next t => some t
  | .fault _ => none
  | .refused _ => none

/-- The block after reset with flags `F` and one request to come. -/
def before (cw : BitVec 16) (src dest : Port) (F : Flags) : State :=
  { State.reset with flags := F, pending := [.request ⟨cw, src, dest⟩] }

/-- RESULT, F and FAULT after that request. -/
def vector (cw : BitVec 16) (src dest : Port) (F : Flags) :
    Option (Option Port × Flags × Option (BitVec 3)) :=
  (endState (step (before cw src dest F))).map fun t => (resultPort t, t.flags, faultPort t)

/-- V2: `add(0x80, 0x80, 8)`. -/
theorem test_add_V2 :
    vector 0x0100 0x80 0x80 ⟨.zero, .zero, .zero, .zero, .zero⟩ =
      some (some 0x0, ⟨.one, .one, .one, .zero, .one⟩, some 0) := by decide
/-- V7: `add(0xFFFFFFFF, 0xFFFFFFFF, 32)`. -/
theorem test_add_V7 :
    vector 0x0400 0xFFFFFFFF 0xFFFFFFFF ⟨.zero, .zero, .zero, .zero, .zero⟩ =
      some (some 0xFFFFFFFE, ⟨.one, .zero, .zero, .one, .zero⟩, some 0) := by decide
/-- V11: `adc(0xFF, 0xFF, 8)`. -/
theorem test_adc_V11 :
    vector 0x0101 0xFF 0xFF ⟨.one, .zero, .zero, .zero, .zero⟩ =
      some (some 0xFF, ⟨.one, .one, .zero, .one, .zero⟩, some 0) := by decide
/-- V14: `adc(0x2, 0x1, 32)`. -/
theorem test_adc_V14 :
    vector 0x0401 0x2 0x1 ⟨.one, .zero, .zero, .zero, .zero⟩ =
      some (some 0x4, ⟨.zero, .zero, .zero, .zero, .zero⟩, some 0) := by decide
/-- V18: `sub(0x80, 0x0, 8)`. -/
theorem test_sub_V18 :
    vector 0x0102 0x80 0x0 ⟨.zero, .zero, .zero, .zero, .zero⟩ =
      some (some 0x80, ⟨.one, .zero, .zero, .one, .one⟩, some 0) := by decide
/-- V21: `sub(0xFFFF, 0x7FFF, 16)`. -/
theorem test_sub_V21 :
    vector 0x0202 0xFFFF 0x7FFF ⟨.zero, .zero, .zero, .zero, .zero⟩ =
      some (some 0x8000, ⟨.one, .one, .zero, .one, .one⟩, some 0) := by decide
/-- V25: `sbb(0x7F, 0x80, 8)`. -/
theorem test_sbb_V25 :
    vector 0x0103 0x7F 0x80 ⟨.one, .zero, .zero, .zero, .zero⟩ =
      some (some 0x0, ⟨.zero, .one, .one, .zero, .one⟩, some 0) := by decide
/-- V27: `sbb(0x1, 0x3, 16)`. -/
theorem test_sbb_V27 :
    vector 0x0203 0x1 0x3 ⟨.zero, .zero, .zero, .zero, .zero⟩ =
      some (some 0x2, ⟨.zero, .zero, .zero, .zero, .zero⟩, some 0) := by decide
/-- V32: `mul(0x1FF, 0x2, 8)`. -/
theorem test_mul_V32 :
    vector 0x0104 0x1FF 0x2 ⟨.one, .zero, .one, .zero, .one⟩ =
      some (some 0x1FE, ⟨.one, .zero, .one, .zero, .one⟩, some 0) := by decide
/-- V35: `mul(0xFFFFFFFF, 0xFFFFFFFF, 32)`. -/
theorem test_mul_V35 :
    vector 0x0404 0xFFFFFFFF 0xFFFFFFFF ⟨.one, .zero, .one, .zero, .one⟩ =
      some (some 0xFFFFFFFE00000001, ⟨.one, .zero, .one, .zero, .one⟩, some 0) := by decide
/-- V39: `imul(0x8000, 0xFFFF, 16)`. -/
theorem test_imul_V39 :
    vector 0x0205 0x8000 0xFFFF ⟨.one, .zero, .one, .zero, .one⟩ =
      some (some 0x8000, ⟨.one, .zero, .one, .zero, .one⟩, some 0) := by decide
/-- V40: `imul(0xFFFFFFFF, 0x7FFFFFFF, 32)`. -/
theorem test_imul_V40 :
    vector 0x0405 0xFFFFFFFF 0x7FFFFFFF ⟨.one, .zero, .one, .zero, .one⟩ =
      some (some 0xFFFFFFFF80000001, ⟨.one, .zero, .one, .zero, .one⟩, some 0) := by decide
/-- V43: `div(0x2, 0x20000, 8)`. -/
theorem test_div_V43 :
    vector 0x0106 0x2 0x20000 ⟨.one, .zero, .one, .zero, .one⟩ =
      some (some 0x0, ⟨.one, .zero, .one, .zero, .one⟩, some 0) := by decide
/-- V45: `div(0x3, 0xFFFFFFFFFFFFFFFF, 32)`. -/
theorem test_div_V45 :
    vector 0x0406 0x3 0xFFFFFFFFFFFFFFFF ⟨.one, .zero, .one, .zero, .one⟩ =
      some (some 0x55555555, ⟨.one, .zero, .one, .zero, .one⟩, some 0) := by decide
/-- V48: `idiv(0xFFFFFFFFFFFFFFF9, 0x64, 8)`. -/
theorem test_idiv_V48 :
    vector 0x0107 0xFFFFFFFFFFFFFFF9 0x64 ⟨.one, .zero, .one, .zero, .one⟩ =
      some (some 0xFFFFFFF2, ⟨.one, .zero, .one, .zero, .one⟩, some 0) := by decide
/-- V51: `idiv(0xFFFFFFFFFFFFFFFF, 0xFFFFFFFF80000000, 32)`. -/
theorem test_idiv_V51 :
    vector 0x0407 0xFFFFFFFFFFFFFFFF 0xFFFFFFFF80000000 ⟨.one, .zero, .one, .zero, .one⟩ =
      some (some 0x80000000, ⟨.one, .zero, .one, .zero, .one⟩, some 0) := by decide
/-- V56: `mod(0x100000001, 0x100000000)`. -/
theorem test_mod_V56 :
    vector 0x0008 0x100000001 0x100000000 ⟨.one, .zero, .one, .zero, .one⟩ =
      some (some 0x0, ⟨.one, .zero, .one, .zero, .one⟩, some 0) := by decide
/-- V57: `mod(0x5, 0x3)`. -/
theorem test_mod_V57 :
    vector 0x0188 0x5 0x3 ⟨.one, .zero, .one, .zero, .one⟩ =
      some (some 0x3, ⟨.one, .zero, .one, .zero, .one⟩, some 0) := by decide
/-- V59: `imod(0x2, 0xFFFFFFFFFFFFFFF9)`. -/
theorem test_imod_V59 :
    vector 0x0009 0x2 0xFFFFFFFFFFFFFFF9 ⟨.one, .zero, .one, .zero, .one⟩ =
      some (some 0xFFFFFFFF, ⟨.one, .zero, .one, .zero, .one⟩, some 0) := by decide
/-- V60: `imod(0xFFFFFFFFFFFFFFFE, 0x7)`. -/
theorem test_imod_V60 :
    vector 0x0009 0xFFFFFFFFFFFFFFFE 0x7 ⟨.one, .zero, .one, .zero, .one⟩ =
      some (some 0x1, ⟨.one, .zero, .one, .zero, .one⟩, some 0) := by decide
/-- V63: `and(0xF0F0, 0xFF0, 16)`. -/
theorem test_and_V63 :
    vector 0x020A 0xF0F0 0xFF0 ⟨.one, .one, .one, .one, .one⟩ =
      some (some 0xF0, ⟨.zero, .one, .zero, .zero, .zero⟩, some 0) := by decide
/-- V65: `and(0xFFFFFFFF, 0x80000000, 32)`. -/
theorem test_and_V65 :
    vector 0x040A 0xFFFFFFFF 0x80000000 ⟨.zero, .zero, .zero, .zero, .zero⟩ =
      some (some 0x80000000, ⟨.zero, .one, .zero, .one, .zero⟩, some 0) := by decide
/-- V67: `or(0x100, 0x0, 8)`. -/
theorem test_or_V67 :
    vector 0x010B 0x100 0x0 ⟨.one, .one, .one, .one, .one⟩ =
      some (some 0x0, ⟨.zero, .one, .one, .zero, .zero⟩, some 0) := by decide
/-- V68: `or(0x7F, 0x7F, 8)`. -/
theorem test_or_V68 :
    vector 0x010B 0x7F 0x7F ⟨.one, .one, .one, .one, .one⟩ =
      some (some 0x7F, ⟨.zero, .zero, .zero, .zero, .zero⟩, some 0) := by decide
/-- V70: `xor(0xFF, 0xFFFF, 16)`. -/
theorem test_xor_V70 :
    vector 0x020C 0xFF 0xFFFF ⟨.one, .one, .one, .one, .one⟩ =
      some (some 0xFF00, ⟨.zero, .one, .zero, .one, .zero⟩, some 0) := by decide
/-- E10: `xor(0xDEADBEEF, 0xDEADBEEF, 32)`. -/
theorem test_xor_E10 :
    vector 0x040C 0xDEADBEEF 0xDEADBEEF ⟨.one, .one, .one, .one, .one⟩ =
      some (some 0x0, ⟨.zero, .one, .one, .zero, .zero⟩, some 0) := by decide
/-- V76: `shl(0x21, 0x81, 8)`. -/
theorem test_shl_V76 :
    vector 0x010D 0x21 0x81 ⟨.one, .zero, .one, .zero, .one⟩ =
      some (some 0x2, ⟨.one, .zero, .zero, .zero, .undef⟩, some 0) := by decide
/-- V78: `shl(0x4, 0xFFF, 16)`. -/
theorem test_shl_V78 :
    vector 0x020D 0x4 0xFFF ⟨.one, .zero, .one, .zero, .one⟩ =
      some (some 0xFFF0, ⟨.zero, .one, .zero, .one, .undef⟩, some 0) := by decide
/-- V81: `shr(0x1, 0x1FF, 8)`. -/
theorem test_shr_V81 :
    vector 0x010E 0x1 0x1FF ⟨.one, .zero, .one, .zero, .one⟩ =
      some (some 0x7F, ⟨.one, .zero, .zero, .zero, .undef⟩, some 0) := by decide
/-- V85: `shr(0xFFFFFFE1, 0x2, 16)`. -/
theorem test_shr_V85 :
    vector 0x020E 0xFFFFFFE1 0x2 ⟨.one, .zero, .one, .zero, .one⟩ =
      some (some 0x1, ⟨.zero, .zero, .zero, .zero, .undef⟩, some 0) := by decide
/-- V88: `sar(0x8, 0x80, 8)`. -/
theorem test_sar_V88 :
    vector 0x010F 0x8 0x80 ⟨.one, .zero, .one, .zero, .one⟩ =
      some (some 0xFF, ⟨.one, .one, .zero, .one, .undef⟩, some 0) := by decide
/-- V92: `sar(0x1F, 0x80000000, 32)`. -/
theorem test_sar_V92 :
    vector 0x040F 0x1F 0x80000000 ⟨.one, .zero, .one, .zero, .one⟩ =
      some (some 0xFFFFFFFF, ⟨.zero, .one, .zero, .one, .undef⟩, some 0) := by decide
/-- V94: `sal(0x1, 0xC0, 8)`. -/
theorem test_sal_V94 :
    vector 0x0110 0x1 0xC0 ⟨.one, .zero, .one, .zero, .one⟩ =
      some (some 0x80, ⟨.one, .zero, .zero, .one, .undef⟩, some 0) := by decide
/-- V95: `sal(0x8, 0x1, 8)`. -/
theorem test_sal_V95 :
    vector 0x0110 0x8 0x1 ⟨.one, .zero, .one, .zero, .one⟩ =
      some (some 0x0, ⟨.one, .one, .one, .zero, .undef⟩, some 0) := by decide

/-! ### Faults and their order -/

/-- V15: `adc(0x1, 0x1, 8)`. -/
theorem test_undefined_carry_V15 :
    vector 0x0101 0x1 0x1 ⟨.undef, .zero, .zero, .zero, .zero⟩ =
      some (none, ⟨.undef, .zero, .zero, .zero, .zero⟩, some 4) := by decide
/-- V46: `div(0x0, 0x100, 8)`. -/
theorem test_zero_divisor_V46 :
    vector 0x0106 0x0 0x100 ⟨.one, .zero, .one, .zero, .one⟩ =
      some (none, ⟨.one, .zero, .one, .zero, .one⟩, some 5) := by decide
/-- V47: `div(0x0, 0x100, 5)`. -/
theorem test_width_before_divisor_V47 :
    vector 0x00A6 0x0 0x100 ⟨.one, .zero, .one, .zero, .one⟩ =
      some (none, ⟨.one, .zero, .one, .zero, .one⟩, some 3) := by decide
/-- V52: `idiv(0xFFFFFFFFFFFFFFFF, 0x8000000000000000, 32)`. -/
theorem test_divide_overflow_V52 :
    vector 0x0407 0xFFFFFFFFFFFFFFFF 0x8000000000000000 ⟨.one, .zero, .one, .zero, .one⟩ =
      some (none, ⟨.one, .zero, .one, .zero, .one⟩, some 6) := by decide
/-- V61: `imod(0xFFFFFFFFFFFFFFFF, 0x8000000000000000)`. -/
theorem test_imod_overflow_V61 :
    vector 0x0009 0xFFFFFFFFFFFFFFFF 0x8000000000000000 ⟨.one, .zero, .one, .zero, .one⟩ =
      some (none, ⟨.one, .zero, .one, .zero, .one⟩, some 6) := by decide
/-- V99: `raw CW, SRC=0x1, DEST=0x1`. -/
theorem test_bad_width_V99 :
    vector 0x0420 0x1 0x1 ⟨.one, .zero, .one, .zero, .one⟩ =
      some (none, ⟨.one, .zero, .one, .zero, .one⟩, some 3) := by decide
/-- V101: `raw CW, SRC=0x1, DEST=0x1`. -/
theorem test_reserved_before_illegal_V101 :
    vector 0x0811 0x1 0x1 ⟨.one, .zero, .one, .zero, .one⟩ =
      some (none, ⟨.one, .zero, .one, .zero, .one⟩, some 1) := by decide
/-- V102: `raw CW, SRC=0x1, DEST=0x1`. -/
theorem test_width_before_carry_V102 :
    vector 0x0181 0x1 0x1 ⟨.undef, .zero, .zero, .zero, .zero⟩ =
      some (none, ⟨.undef, .zero, .zero, .zero, .zero⟩, some 3) := by decide

/-- V93: `sar(0x0, 0x80, 8)` keeps every flag `U`. -/
theorem test_shift_by_zero_keeps_undefined :
    vector 0x010F 0x0 0x80 ⟨.undef, .undef, .undef, .undef, .undef⟩ =
      some (some 0x80, ⟨.undef, .undef, .undef, .undef, .undef⟩, some 0) := by decide

/-- P5, steps 1 and 2: a fault goes on to the next move, a host flag write. -/
theorem test_program_P5_first_steps :
    (endState (step { State.reset with pending := [.request ⟨0x0101, 1, 1⟩] })).map
        (fun t => (t.faults, t.flags.cf)) = some ([.undefinedFlagRead], .undef) ∧
      (endState (step { State.reset with
          pending := [.writeFlags ⟨some false, none, none, none, none⟩] })).map (·.flags) =
        some ⟨.zero, .undef, .undef, .undef, .undef⟩ := by decide

/-- A table word runs as the first request after reset. -/
theorem test_withFetchWord_runs :
    (endState (step (State.reset.withFetchWord 16 0x010C))).map resultPort = some (some 0) := by decide

/-! ### The hypotheses of the obligations can be met -/

/-- A state with CF = `c`. -/
def withCf (c : Flag) : State := { State.reset with flags := ⟨c, .zero, .zero, .zero, .zero⟩ }

/-- A state composed with the reference, one request to come. -/
def referenceState : State :=
  { State.reset with impl := .referenceImpl, pending := [.request ⟨0x0100, 1, 2⟩] }

theorem test_witness_AcceptedRequestIsEncoding :
    decode ⟨0x0188#16, 5#64, 3#64⟩ = .ok (.mod 5#64 3#64 12#6) := by decide

theorem test_witness_WorkedEncodings : State.reset.impl = .localImpl := by decide

theorem test_witness_StepRunsDecodedOperation :
    (before 0x0100 1 2 State.reset.flags).impl = .localImpl ∧
      (before 0x0100 1 2 State.reset.flags).pending = .request ⟨0x0100, 1, 2⟩ :: [] ∧
      decode ⟨0x0100, 1, 2⟩ = .ok (.add 1 2 8) := by decide

theorem test_witness_StepPerformsNextRequest :
    referenceState.pending = .request ⟨0x0100, 1, 2⟩ :: [] := by decide

theorem test_witness_StepWithoutMovesIsIdle : State.reset.pending = [] := by decide

theorem test_witness_HostFlagWriteSetsChosenFlags :
    (State.reset.withMoves [.writeFlags ⟨some true, none, some false, none, none⟩]).pending =
      .writeFlags ⟨some true, none, some false, none, none⟩ :: [] := by decide

theorem test_witness_OnlyReferenceIsRefused :
    referenceState.impl = .referenceImpl ∧ step referenceState = .refused .referenceImplementation :=
  ⟨rfl, rfl⟩

theorem test_witness_EveryRequestTerminates :
    (before 0x0100 1 2 State.reset.flags).impl = .localImpl := by decide

theorem test_witness_StepKeepsImplementation : step State.reset = .next State.reset := rfl

/-- One witness per clause, at the boundary of its range. -/
theorem test_witness_FirstApplicableFaultIsReported :
    State.reset.impl = .localImpl ∧
    (endState (issue ⟨0x0800, 0, 0⟩ .reset)).map (·.response) = some (.fault .reservedControlBits) ∧
    (endState (issue ⟨0x0011, 0, 0⟩ .reset)).map (·.response) = some (.fault .illegalOp) ∧
    (endState (issue ⟨0x0410 + 0x20, 0, 0⟩ .reset)).map (·.response) = some (.fault .invalidWidth) ∧
    (endState (issue ⟨0x0403, 0, 0⟩ .reset)).map (·.response) = some (.fault .undefinedFlagRead) ∧
    (endState (issue ⟨0x0009, 0, 1⟩ .reset)).map (·.response) = some (.fault .divideByZero) ∧
    (endState (issue ⟨0x0407, 0xFFFFFFFFFFFFFFFF, 0x8000000000000000⟩ .reset)).map (·.response) =
      some (.fault .divideOverflow) ∧
    (endState (issue ⟨0x0406, 0xFFFFFFFFFFFFFFFF, 0x8000000000000000⟩ .reset)).map (·.response) =
      some (.ok 0) := by decide

theorem test_witness_FaultHasNoOtherEffect :
    ∃ (r : Request) (s t : State) (f : Fault), issue r s = .next t ∧ t.response = .fault f :=
  ⟨⟨0x0011, 1, 1⟩, .reset, _, _, rfl, rfl⟩

theorem test_witness_FaultPortShowsOneCode :
    ∃ (r : Request) (s t : State), issue r s = .next t := ⟨⟨0x0100, 1, 1⟩, .reset, _, rfl⟩

theorem test_witness_BadControlWordsFault :
    State.reset.impl = .localImpl ∧ (0x0800#16).extractLsb 15 11 ≠ 0 ∧
      (0x0011#16).extractLsb 15 11 = 0 ∧ 17 ≤ ((0x0011#16).extractLsb 4 0).toNat := by decide

theorem test_witness_InvalidWidthExactlyWhenIllFormed :
    (Instr.add 1 1 12).wellFormed = false ∧
      ∃ t, exec (.add 1 1 12) .reset = .next t ∧ t.response = .fault .invalidWidth :=
  ⟨by decide, _, rfl, rfl⟩

theorem test_witness_UndefinedCarryFaults :
    State.reset.flags.cf = .undef ∧
      (∃ t, exec (.sbb 1 1 8) .reset = .next t ∧ t.response = .fault .undefinedFlagRead) ∧
      step (withCf .one) = .next (withCf .one) ∧ (withCf .one).flags.cf ≠ .undef :=
  ⟨rfl, ⟨_, rfl, rfl⟩, rfl, by decide⟩

theorem test_witness_ZeroDivisorFaults :
    ∃ t, exec (.imod 0 1 5) .reset = .next t ∧ t.response = .fault .divideByZero := ⟨_, rfl, rfl⟩

theorem test_witness_DivideOverflowOnOnePairOnly :
    (OverflowPair 0xFFFFFFFFFFFFFFFF 0x8000000000000000 ∧
      ∃ t, exec (.idiv 0xFFFFFFFFFFFFFFFF 0x8000000000000000 8) .reset = .next t ∧
        t.response = .fault .divideOverflow) ∧
      (2#64 ≠ 0#64 ∧ ¬ OverflowPair 2 0x8000000000000000) :=
  ⟨⟨⟨rfl, rfl⟩, _, rfl, rfl⟩, by decide, fun h => absurd h.2 (by decide)⟩

theorem test_witness_FaultsAreNeverRemoved :
    (∃ t, issue ⟨0x0011, 1, 1⟩ .reset = .next t ∧ t.response = .fault .illegalOp) ∧
      step State.reset = .next State.reset ∧
      ¬ NoFault (State.reset.afterFault .illegalOp) ∧
      Host.Core.run Sys2Proof.core 0 (State.reset.afterFault .illegalOp) =
        .next (State.reset.afterFault .illegalOp) :=
  ⟨⟨_, rfl, rfl⟩, rfl, by simp [NoFault, State.afterFault], rfl⟩

theorem test_witness_OperationTouchesOnlyItsOutputs :
    ∃ t, exec (.and 1 1 8) .reset = .next t := ⟨_, rfl⟩

theorem test_witness_OnlyAdcAndSbbReadAFlag :
    (withCf .one).flags.cf = (withCf .one).flags.cf ∧
      ∃ t, exec (.adc 1 1 8) (withCf .one) = .next t := ⟨rfl, _, rfl⟩

theorem test_witness_StatusFlagsDescribeTheResult :
    (WritesStatus (.shl 1 1 8) ∧ widthOf (.shl 1 1 8) = Width.w8.field ∧
      ∃ t, exec (.shl 1 1 8) .reset = .next t ∧ t.response = .ok 2) ∧
      (¬ WritesStatus (.shl 32 1 8) ∧ ∃ t, exec (.shl 32 1 8) .reset = .next t) ∧
      ∃ t, exec (.shl 1 1 7) .reset = .next t ∧ t.response = .fault .invalidWidth :=
  ⟨⟨by simp [WritesStatus], by decide, _, rfl, rfl⟩, ⟨by simp [WritesStatus], _, rfl⟩, _, rfl, rfl⟩

theorem test_witness_OnlyShiftsMakeAFlagUndefined :
    let s := before 0x010D 1 1 ⟨.one, .one, .one, .one, .one⟩
    s.flags.cf ≠ .undef ∧ s.flags.pf ≠ .undef ∧ s.flags.zf ≠ .undef ∧ s.flags.sf ≠ .undef ∧
      s.flags.of ≠ .undef ∧ ∃ t, step s = .next t ∧ t.flags.of = .undef :=
  ⟨by decide, by decide, by decide, by decide, by decide, _, rfl, rfl⟩

theorem test_witness_ResultFitsItsWidth :
    ∃ t, exec (.mul 0xFF 0xFF 8) .reset = .next t ∧ t.response = .ok 0xFE01 := ⟨_, rfl, rfl⟩

theorem test_witness_HighOperandBitsAreIgnored :
    unsignedAt .w8 0x1FF = unsignedAt .w8 0xFF ∧ unsignedAt .w8 0x301 = unsignedAt .w8 0x01 ∧
      (0x1FF#64).toNat % 32 = (0xFF#64).toNat % 32 := by decide

theorem test_witness_ModIgnoresWidthIdivOnlyChecksIt : legalWidth 12 = false := by decide

theorem test_witness_CarryIsCarryOrBorrowOut :
    (withCf .zero).flags.cf = .ofBool false ∧ (withCf .one).flags.cf = .ofBool true := by decide

theorem test_witness_OverflowIsSignedOverflow :
    (withCf .zero).flags.cf = .ofBool false ∧ (withCf .one).flags.cf = .ofBool true := by decide

theorem test_witness_AdditionFamilyLaws :
    (withCf .one).flags.cf = .ofBool true ∧
      (∃ t, exec (.add 0xFF 1 8) .reset = .next t ∧ t.response = .ok 0) ∧
      ∃ t, exec (.sub 1 0 8) .reset = .next t ∧ t.response = .ok 0xFF :=
  ⟨by decide, ⟨_, rfl, rfl⟩, _, rfl, rfl⟩

theorem test_witness_WithoutCarryAdcIsAddAndSbbIsSub : (withCf .zero).flags.cf = .zero := by decide

theorem test_witness_DivisionLaws :
    2#64 ≠ 0#64 ∧ ¬ OverflowPair 2 0xFFFFFFFFFFFFFFF9 :=
  ⟨by decide, fun h => absurd h.2 (by decide)⟩

theorem test_witness_MulDivFlagEffects :
    (∃ t, exec (.mul 0x10 0x10 8) .reset = .next t ∧ t.response = .ok 0x100) ∧
      ∃ t, exec (.div 7 0x100 8) .reset = .next t := ⟨⟨_, rfl, rfl⟩, _, rfl⟩

theorem test_witness_ShiftCarryIsLastBitOut :
    1 ≤ (0x21#64).toNat % 32 ∧ 1 ≤ (0x1F#64).toNat % 32 := by decide

theorem test_witness_ShiftValuesAndUndefinedOverflow :
    1 ≤ (0x21#64).toNat % 32 ∧ 1 ≤ (0x1F#64).toNat % 32 := by decide

theorem test_witness_ShiftByZeroOnlyMasks :
    (0x20#64).toNat % 32 = 0 ∧ (0x0#64).toNat % 32 = 0 := by decide

theorem test_witness_EveryStepKeepsFlagsCoherent :
    Inv (before 0x010C 5 5 State.reset.flags) ∧
      ∃ t, step (before 0x010C 5 5 State.reset.flags) = .next t ∧ t.flags.zf = .one :=
  ⟨⟨by simp [before], by simp [before, FlagsCoherent, State.reset], by simp [before, State.reset]⟩, _, rfl, rfl⟩

end Sys2Proof.Tests
end

/-! ### Scope: refusals and stop faults (00_scope.md R10) -/

namespace Sys2Proof.Machine

open Sys2Proof

/-- A request that ends does so in a next state: it is not refused and does not stop the block. -/
theorem Ends.exists_next {s : State} {o : Host.Outcome State Fault Refusal} (h : Ends s o) :
    ∃ t, o = .next t := by
  cases h with
  | result F result => exact ⟨_, rfl⟩
  | fault f => exact ⟨_, rfl⟩

theorem issue_of_referenceImpl (r : Request) {s : State} (h : s.impl = .referenceImpl) :
    issue r s = .refused .referenceImplementation := by
  simp [issue, h]

/-- The two outcomes of a step, split by ALU_IMPL: only a request under `reference` gives no next state
(00_scope.md R10, 60_exceptions.md R142, R143). -/
theorem step_next_or_refused (s : State) :
    (∃ t, step s = .next t) ∨
    (s.impl = .referenceImpl ∧ (∃ r rest, s.pending = .request r :: rest) ∧
      step s = .refused .referenceImplementation) := by
  obtain ⟨-, hs⟩ | ⟨w, rest, -, hs⟩ | ⟨r, rest, hp, hs⟩ := step_cases s
  · exact .inl ⟨_, hs⟩
  · exact .inl ⟨_, hs⟩
  · cases himpl : s.impl with
    | localImpl => exact .inl (hs ▸ (issue_ends r (s := s.withMoves rest) himpl).exists_next)
    | referenceImpl => exact .inr ⟨rfl, ⟨r, rest, hp⟩, hs.trans (issue_of_referenceImpl r himpl)⟩

theorem step_ne_fault (s : State) (f : Fault) : step s ≠ .fault f := by
  obtain ⟨t, hs⟩ | ⟨-, -, hs⟩ := step_next_or_refused s <;> simp [hs]

theorem step_eq_refused {s : State} {q : Refusal} (h : step s = .refused q) :
    s.impl = .referenceImpl ∧ q = .referenceImplementation ∧
      ∃ r rest, s.pending = .request r :: rest := by
  obtain ⟨t, hs⟩ | ⟨himpl, hp, hs⟩ := step_next_or_refused s
  · simp [hs] at h
  · cases hs.symm.trans h
    exact ⟨himpl, rfl, hp⟩

end Sys2Proof.Machine

namespace Sys2Proof.Proofs

open Sys2Proof Sys2Proof.Machine

/-- Settles O9, from the two outcomes a step can have. -/
theorem onlyReferenceIsRefused : Obligations.OnlyReferenceIsRefused :=
  ⟨fun r _ h => issue_of_referenceImpl r h, fun _ _ h => step_eq_refused h, step_ne_fault⟩

end Sys2Proof.Proofs

/-! ### The step and the host's moves (10_state.md R42 to R45) -/

namespace Sys2Proof.Machine

open Sys2Proof

theorem step_of_no_moves {s : State} (h : s.pending = []) : step s = .next s := by
  simp [step, takeTurn, h]

theorem step_of_request {s : State} {r : Request} {rest : List HostMove}
    (h : s.pending = .request r :: rest) : step s = issue r (s.withMoves rest) := by
  simp [step, takeTurn, h, hostMove]

theorem step_of_writeFlags {s : State} {w : FlagWrite} {rest : List HostMove}
    (h : s.pending = .writeFlags w :: rest) :
    step s = .next ((s.withMoves rest).afterHostWrite w) := by
  simp [step, takeTurn, h, hostMove]

theorem issue_of_decode {r : Request} {s : State} {i : Instr} (himpl : s.impl = .localImpl)
    (hd : decode r = .ok i) : issue r s = exec i s := by
  simp [issue, himpl, hd]

theorem Flag.hostWrite_eq_elim (old : Flag) (o : Option Bool) :
    old.hostWrite o = o.elim old fun b => if b then .one else .zero := by
  cases o <;> rfl

/-- The host cannot write `U` (10_state.md R43). -/
theorem Flag.hostWrite_ne_undef {old : Flag} (h : old ≠ .undef) (o : Option Bool) :
    old.hostWrite o ≠ .undef := by
  cases o with
  | none => exact h
  | some b => exact Flag.ofBool_ne_undef b

/-- A request with a next state was performed by the local implementation. -/
theorem impl_of_issue_next {r : Request} {s t : State} (h : issue r s = .next t) :
    s.impl = .localImpl := by
  cases himpl : s.impl with
  | localImpl => rfl
  | referenceImpl => rw [issue_of_referenceImpl r himpl] at h; cases h

/-- A request with a next state was refused by the decoder, or its operation gave that state. -/
theorem issue_next_cases {r : Request} {s t : State} (h : issue r s = .next t) :
    (∃ e, decode r = .error e ∧ t = s.afterFault (.ofDecodeError e)) ∨
    ∃ i, decode r = .ok i ∧ exec i s = .next t := by
  have himpl := impl_of_issue_next h
  cases hd : decode r with
  | ok i => exact .inr ⟨i, rfl, issue_of_decode himpl hd ▸ h⟩
  | error e =>
    simp only [issue, himpl, hd, raiseFault_eq, Host.Outcome.next.injEq] at h
    exact .inl ⟨e, rfl, h.symm⟩

/-! ### The flag image -/

/-- One bit of a flag image before the bits are joined. -/
theorem shiftedBit_getLsbD (b : Bool) {k : Nat} (hk : k < 32) (i : Nat) :
    ((BitVec.ofBool b).setWidth 32 <<< k).getLsbD i = true ↔ i = k ∧ b = true := by
  cases b with
  | false => simp
  | true =>
    change (BitVec.twoPow 32 k).getLsbD i = true ↔ i = k ∧ true = true
    simp [BitVec.getLsbD_twoPow, hk, eq_comm]

theorem flagImage_getLsbD (cf pf zf sf of : Bool) (i : Nat) :
    (flagImage cf pf zf sf of).getLsbD i = true ↔
      i = 0 ∧ cf = true ∨ i = 2 ∧ pf = true ∨ i = 6 ∧ zf = true ∨ i = 7 ∧ sf = true ∨
        i = 11 ∧ of = true := by
  simp only [flagImage, BitVec.getLsbD_or, Bool.or_eq_true, or_assoc,
    shiftedBit_getLsbD _ (by decide : 0 < 32), shiftedBit_getLsbD _ (by decide : 2 < 32),
    shiftedBit_getLsbD _ (by decide : 6 < 32), shiftedBit_getLsbD _ (by decide : 7 < 32),
    shiftedBit_getLsbD _ (by decide : 11 < 32)]

@[simp] theorem Flag.bit_eq_true (f : Flag) : f.bit = true ↔ f = .one := by simp [Flag.bit]
@[simp] theorem Flag.defined_eq_true (f : Flag) : f.defined = true ↔ f ≠ .undef := by
  simp [Flag.defined]

end Sys2Proof.Machine

/-! ### The status flags of a masked result (40_units.md R86 to R88) -/

namespace Sys2Proof.Machine

open Sys2Proof Sys2Proof.Safety

theorem Width.field_toNat (w : Width) : w.field.toNat = w.bits := by cases w <;> rfl

theorem Width.field_injective : Function.Injective Width.field := fun w w' h => by
  simpa using congrArg Width.ofField h

theorem Width.eight_le_bits (w : Width) : 8 ≤ w.bits := by cases w <;> decide

/-- Masking to 8 bits or more keeps the low 8 bits, so PF can be read off the result. -/
theorem parityFlag_eq (r : Word) (w : Width) : parityFlag r = evenParity (r.toNat % 2 ^ w.bits) := by
  have h : ∀ i ∈ List.range 8, r.getLsbD i = (r.toNat % 2 ^ w.bits).testBit i := fun i hi => by
    have := List.mem_range.mp hi
    have := Width.eight_le_bits w
    simp [Nat.testBit_mod_two_pow, BitVec.getLsbD, show i < w.bits by omega]
  unfold parityFlag evenParity popcount8
  rw [List.countP_congr fun i hi => by rw [h i hi]]

theorem zeroFlag_eq (r : Word) (w : Width) : zeroFlag r w = (r.toNat % 2 ^ w.bits == 0) := by
  simp [zeroFlag, ← mask_toNat, ← BitVec.toNat_inj, Bool.beq_eq_decide_eq]

theorem signFlag_eq (r : Word) (w : Width) :
    signFlag r w = (r.toNat % 2 ^ w.bits).testBit (w.bits - 1) := by
  have hp := Width.bits_pos w
  have hle := Width.bits_le w
  rw [signFlag, sign, sx_getLsbD r w (by decide), show min 31 (w.bits - 1) = w.bits - 1 by omega]
  simp [Nat.testBit_mod_two_pow, BitVec.getLsbD, hp]

theorem resultFlags_status (r : Word) (w : Width) (cf of : Flag) :
    StatusFlags w (resultMasked r w).toNat (resultFlags r w cf of) := by
  rw [resultMasked_toNat]
  exact ⟨congrArg Flag.ofBool (parityFlag_eq r w), congrArg Flag.ofBool (zeroFlag_eq r w),
    congrArg Flag.ofBool (signFlag_eq r w)⟩

/-! ### Bounds on results (30_encoding.md R71) -/

theorem resultMasked_lt (r : Word) (w : Width) : (resultMasked r w).toNat < 2 ^ w.bits := by
  rw [resultMasked_toNat]
  exact Nat.mod_lt _ (Nat.two_pow_pos _)

theorem resultHost_lt (v : Word) : (resultHost v).toNat < 2 ^ 32 :=
  (BitVec.toNat_setWidth 64 v).symm ▸ (Nat.mod_le v.toNat (2 ^ 64)).trans_lt v.isLt

theorem unsignedOperand_lt (v : Word) (w : Width) : (unsignedOperand v w).toNat < 2 ^ w.bits :=
  resultMasked_lt v w

theorem unsignedProduct_lt (a b : Word) (w : Width) :
    (unsignedOperand a w * unsignedOperand b w).toNat < 2 ^ (2 * w.bits) := by
  rw [BitVec.toNat_mul, two_mul, pow_add]
  exact (Nat.mod_le _ _).trans_lt (Nat.mul_lt_mul'' (unsignedOperand_lt a w) (unsignedOperand_lt b w))

/-! ### The effect of an operation

Every operation reads the state only to decide one of four effects, and reads no flag for that but the CF
of adc and sbb (10_state.md R28). `exec_effect` says this once for the seventeen operations. -/

/-- What an operation does to a state. -/
inductive Effect where
  /-- It raises `f`. -/
  | fault (f : Fault)
  /-- It answers the raw result `r` cut to `w` and writes all five flags. -/
  | status (r : Word) (w : Width) (carry : Bool) (of : Flag)
  /-- It answers the product `p` and writes CF and OF. -/
  | product (p : Port) (w : Width)
  /-- It answers `result` and writes no flag. -/
  | value (result : Port)

/-- The state after an effect. -/
def Effect.after : Effect → State → State
  | .fault f, s => s.afterFault f
  | .status r w carry of, s => s.afterResult (resultFlags r w (.ofBool carry) of) (resultMasked r w)
  | .product p w, s => s.afterResult (mulFlags s.flags p w) p
  | .value result, s => s.afterResult s.flags result

/-- The shifts, with their count operand, the shifted operand and the WIDTH field. -/
inductive IsShift (src dest : Port) (width : BitVec 6) : Instr → Prop where
  | shl : IsShift src dest width (.shl src dest width)
  | shr : IsShift src dest width (.shr src dest width)
  | sar : IsShift src dest width (.sar src dest width)
  | sal : IsShift src dest width (.sal src dest width)

theorem IsShift.writesStatus_iff {i : Instr} {src dest : Port} {width : BitVec 6}
    (h : IsShift src dest width i) : WritesStatus i ↔ src.toNat % 32 ≠ 0 := by cases h <;> exact Iff.rfl

theorem IsShift.widthOf_eq {i : Instr} {src dest : Port} {width : BitVec 6}
    (h : IsShift src dest width i) : widthOf i = width := by cases h <;> rfl

theorem IsShift.resultBits_eq {i : Instr} {src dest : Port} {width : BitVec 6}
    (h : IsShift src dest width i) : resultBits i = width.toNat := by cases h <;> rfl

/-- The operation shifts by a count that is not 0 modulo 32. -/
def ShiftsByNonzero (i : Instr) : Prop :=
  ∃ src dest width, IsShift src dest width i ∧ src.toNat % 32 ≠ 0

/-- The operations that read CF. -/
def ReadsCarry (i : Instr) : Prop := ∃ src dest width, i = .adc src dest width ∨ i = .sbb src dest width

/-- The operation writes PF, ZF and SF, and its result is cut to `w`. -/
structure WritesStatusAt (i : Instr) (w : Width) : Prop where
  writes : WritesStatus i
  width : widthOf i = w.field
  bits : resultBits i = (widthOf i).toNat

/-- The effects the rules of an operation allow: which operations write PF, ZF and SF and at which width,
which leave OF undefined, and how large a result is. -/
def Effect.Fits (i : Instr) : Effect → Prop
  | .fault _ => True
  | .status _ w _ of => WritesStatusAt i w ∧ (of = .undef → ShiftsByNonzero i)
  | .product p _ => ¬ WritesStatus i ∧ p.toNat < 2 ^ resultBits i
  | .value result => ¬ WritesStatus i ∧ result.toNat < 2 ^ resultBits i

/-- `body` has one effect, fit for `i`, in all states that agree on CF (being `c`) where `i` reads it. -/
def HasEffect (i : Instr) (c : Flag) (body : State → Host.Outcome State Fault Refusal) : Prop :=
  ∃ e : Effect, e.Fits i ∧ ∀ s, (ReadsCarry i → s.flags.cf = c) → body s = .next (e.after s)

section Combinators

variable {i : Instr} {c : Flag}

theorem hasEffect_raiseFault (f : Fault) : HasEffect i c (raiseFault f) :=
  ⟨.fault f, trivial, fun _ _ => rfl⟩

/-- A masked result with its status flags, CF and OF being computed bits. -/
theorem hasEffect_masked {w : Width} (hi : WritesStatusAt i w) (r : Word) (carry overflow : Bool) :
    HasEffect i c fun s =>
      complete (resultFlags r w (.ofBool carry) (.ofBool overflow)) (resultMasked r w) s :=
  ⟨.status r w carry (.ofBool overflow), ⟨hi, fun h => absurd h (Flag.ofBool_ne_undef _)⟩,
    fun _ _ => rfl⟩

theorem hasEffect_product (hs : ¬ WritesStatus i) {p : Port} (hp : p.toNat < 2 ^ resultBits i)
    (w : Width) : HasEffect i c fun s => complete (mulFlags s.flags p w) p s :=
  ⟨.product p w, ⟨hs, hp⟩, fun _ _ => rfl⟩

theorem hasEffect_value (hs : ¬ WritesStatus i) {result : Port}
    (hr : result.toNat < 2 ^ resultBits i) : HasEffect i c fun s => complete s.flags result s :=
  ⟨.value result, ⟨hs, hr⟩, fun _ _ => rfl⟩

theorem hasEffect_withWidth (width : BitVec 6)
    {body : Width → State → Host.Outcome State Fault Refusal}
    (h : ∀ w, width = w.field → HasEffect i c (body w)) :
    HasEffect i c fun s => withWidth width s fun w => body w s := by
  unfold withWidth
  cases hw : Width.ofField width with
  | some w => exact h w (field_of_ofField hw)
  | none => exact hasEffect_raiseFault _

theorem hasEffect_withCarry (hi : ReadsCarry i)
    {body : Bool → State → Host.Outcome State Fault Refusal} (h : ∀ b, HasEffect i c (body b)) :
    HasEffect i c fun s => withCarry s fun b => body b s := by
  have hread : ∀ (b : Bool), c = .ofBool b → HasEffect i c fun s => withCarry s fun b => body b s := by
    rintro b rfl
    obtain ⟨e, hfits, he⟩ := h b
    exact ⟨e, hfits, fun s hs => (withCarry_of_bool (hs hi) _).trans (he s hs)⟩
  cases c with
  | zero => exact hread false rfl
  | one => exact hread true rfl
  | undef => exact ⟨.fault .undefinedFlagRead, trivial, fun s hs => withCarry_undef (hs hi) _⟩

theorem hasEffect_withDivisor (src : Port) {body : State → Host.Outcome State Fault Refusal}
    (h : HasEffect i c body) : HasEffect i c fun s => withDivisor src s (body s) := by
  unfold withDivisor
  split
  · exact hasEffect_raiseFault _
  · exact h

theorem hasEffect_withSignedQuotient (src dest : Port)
    {body : State → Host.Outcome State Fault Refusal} (h : HasEffect i c body) :
    HasEffect i c fun s => withSignedQuotient src dest s (body s) := by
  unfold withSignedQuotient
  split
  · exact hasEffect_raiseFault _
  · exact h

theorem hasEffect_subtract {w : Width} (hi : WritesStatusAt i w) (src dest : Port) :
    HasEffect i c (subtract src dest w) :=
  hasEffect_masked hi _ _ _

theorem hasEffect_logicResult {w : Width} (hi : WritesStatusAt i w) (r : Word) :
    HasEffect i c (logicResult r w) :=
  hasEffect_masked hi r false false

theorem hasEffect_shiftBy {src dest : Port} {width : BitVec 6} (h : IsShift src dest width i)
    {w : Width} (hw : width = w.field) (raw : Nat → Word) (carry : Nat → Bool) :
    HasEffect i c (shiftBy src dest w raw carry) := by
  have hb : resultBits i = w.bits := by rw [h.resultBits_eq, hw, Width.field_toNat]
  unfold shiftBy
  by_cases hn : src.toNat % 32 = 0
  · simp only [shiftCount_eq, hn, if_true]
    exact hasEffect_value (fun hs => h.writesStatus_iff.mp hs hn) (hb ▸ resultMasked_lt _ w)
  · simp only [shiftCount_eq, hn, if_false]
    exact ⟨.status (raw (src.toNat % 32)) w (carry (src.toNat % 32)) .undef,
      ⟨⟨h.writesStatus_iff.mpr hn, h.widthOf_eq.trans hw, by rw [h.resultBits_eq, h.widthOf_eq]⟩,
        fun _ => ⟨src, dest, width, h, hn⟩⟩, fun _ _ => rfl⟩

theorem hasEffect_shiftLeft {src dest : Port} {width : BitVec 6} (h : IsShift src dest width i)
    {w : Width} (hw : width = w.field) : HasEffect i c (shiftLeft src dest w) :=
  hasEffect_shiftBy h hw (operand dest <<< ·) fun n => (operand dest <<< (n - 1)).getLsbD (w.bits - 1)

end Combinators

/-- The effect of every operation, the same in all states that agree on CF where it reads CF. -/
theorem exec_effect (i : Instr) (c : Flag) : HasEffect i c (exec i) := by
  cases i with
  | add =>
    refine hasEffect_withWidth _ fun _ hw => hasEffect_masked ?_ _ _ _
    exact ⟨trivial, hw, rfl⟩
  | adc =>
    refine hasEffect_withWidth _ fun _ hw => hasEffect_withCarry ⟨_, _, _, .inl rfl⟩ fun _ =>
      hasEffect_masked ?_ _ _ _
    exact ⟨trivial, hw, rfl⟩
  | sub =>
    refine hasEffect_withWidth _ fun _ hw => hasEffect_subtract ?_ _ _
    exact ⟨trivial, hw, rfl⟩
  | sbb src dest width =>
    refine hasEffect_withWidth _ fun w hw => hasEffect_withCarry ⟨_, _, _, .inr rfl⟩ fun b => ?_
    have hi : WritesStatusAt (.sbb src dest width) w := ⟨trivial, hw, rfl⟩
    cases b
    · exact hasEffect_subtract hi _ _
    · exact hasEffect_masked hi _ _ _
  | mul =>
    refine hasEffect_withWidth _ fun w hw => hasEffect_product id ?_ w
    rw [resultBits, hw, Width.field_toNat]
    exact unsignedProduct_lt _ _ w
  | imul => exact hasEffect_withWidth _ fun _ _ => hasEffect_value id (BitVec.isLt _)
  | div =>
    refine hasEffect_withWidth _ fun w hw => hasEffect_withDivisor _ (hasEffect_value id ?_)
    rw [resultBits, hw, Width.field_toNat]
    exact resultMasked_lt _ w
  | idiv =>
    exact hasEffect_withWidth _ fun _ _ => hasEffect_withDivisor _
      (hasEffect_withSignedQuotient _ _ (hasEffect_value id (resultHost_lt _)))
  | mod => exact hasEffect_withDivisor _ (hasEffect_value id (resultHost_lt _))
  | imod =>
    exact hasEffect_withDivisor _
      (hasEffect_withSignedQuotient _ _ (hasEffect_value id (resultHost_lt _)))
  | and =>
    refine hasEffect_withWidth _ fun _ hw => hasEffect_logicResult ?_ _
    exact ⟨trivial, hw, rfl⟩
  | or =>
    refine hasEffect_withWidth _ fun _ hw => hasEffect_logicResult ?_ _
    exact ⟨trivial, hw, rfl⟩
  | xor =>
    refine hasEffect_withWidth _ fun _ hw => hasEffect_logicResult ?_ _
    exact ⟨trivial, hw, rfl⟩
  | shl => exact hasEffect_withWidth _ fun _ hw => hasEffect_shiftLeft .shl hw
  | shr => exact hasEffect_withWidth _ fun _ hw => hasEffect_shiftBy .shr hw _ _
  | sar => exact hasEffect_withWidth _ fun _ hw => hasEffect_shiftBy .sar hw _ _
  | sal => exact hasEffect_withWidth _ fun _ hw => hasEffect_shiftLeft .sal hw

/-- The next state of an operation is that of an effect fit for it. -/
theorem exec_next_effect {i : Instr} {s t : State} (h : exec i s = .next t) :
    ∃ e : Effect, e.Fits i ∧ t = e.after s := by
  obtain ⟨e, hfits, he⟩ := exec_effect i s.flags.cf
  rw [he s fun _ => rfl, Host.Outcome.next.injEq] at h
  exact ⟨e, hfits, h.symm⟩

/-! ### What the decoder read (30_encoding.md R59 to R63) -/

section DecodedFields

open Sys2Proof.Laws.EncodedFields (opcode fields)

theorem cwOp_toNat (cw : BitVec 16) : (cwOp cw).toNat = cw.toNat % 32 := by simp [cwOp]

/-- What the decoder reads has the operation code and the operands it was given (30_encoding.md R63). -/
theorem decodeOp_ok {op : BitVec 5} {src dest : Port} {width : BitVec 6} {i : Instr}
    (h : decodeOp op src dest width = .ok i) : op = opcode i ∧ fields i = (src, dest, width) := by
  unfold decodeOp at h
  split at h <;> cases h
  all_goals
    next hop => exact ⟨BitVec.eq_of_toNat_eq hop, rfl⟩

/-- The fields of a request the decoder accepts (30_encoding.md R59 to R63). -/
theorem decode_ok {r : Request} {i : Instr} (h : decode r = .ok i) :
    cwRsv r.cw = 0#5 ∧ cwOp r.cw = opcode i ∧ fields i = (r.src, r.dest, cwWidth r.cw) := by
  unfold decode at h
  split at h
  · next hrsv => exact ⟨hrsv, decodeOp_ok h⟩
  · cases h

/-- The shifts have the codes 13 to 16. -/
theorem IsShift.opcode_bounds {src dest : Port} {width : BitVec 6} {i : Instr}
    (h : IsShift src dest width i) : 13 ≤ (opcode i).toNat ∧ (opcode i).toNat ≤ 16 := by
  cases h <;> simp [opcode]

theorem IsShift.fields_eq {src dest : Port} {width : BitVec 6} {i : Instr}
    (h : IsShift src dest width i) : fields i = (src, dest, width) := by cases h <;> rfl

/-- The request of a shift carries the count on SRC and the shift's code in OP. -/
theorem decode_shift {r : Request} {i : Instr} {src dest : Port} {width : BitVec 6}
    (hd : decode r = .ok i) (h : IsShift src dest width i) :
    r.src = src ∧ 13 ≤ r.cw.toNat % 32 ∧ r.cw.toNat % 32 ≤ 16 := by
  obtain ⟨-, hop, hfields⟩ := decode_ok hd
  rw [← cwOp_toNat, hop]
  exact ⟨congrArg Prod.fst (hfields.symm.trans h.fields_eq), h.opcode_bounds⟩

end DecodedFields

/-! ### Defined flags stay defined (10_state.md R27, 40_units.md R101) -/

/-- CF, PF, ZF and SF have a value in `G` where they have one in `F`. -/
def KeepsDefined (F G : Flags) : Prop :=
  (F.cf ≠ .undef → G.cf ≠ .undef) ∧ (F.pf ≠ .undef → G.pf ≠ .undef) ∧
    (F.zf ≠ .undef → G.zf ≠ .undef) ∧ (F.sf ≠ .undef → G.sf ≠ .undef)

theorem KeepsDefined.refl (F : Flags) : KeepsDefined F F := ⟨id, id, id, id⟩

theorem keepsDefined_hostWriteFlags (F : Flags) (w : FlagWrite) :
    KeepsDefined F (hostWriteFlags F w) :=
  ⟨fun h => Flag.hostWrite_ne_undef h _, fun h => Flag.hostWrite_ne_undef h _,
    fun h => Flag.hostWrite_ne_undef h _, fun h => Flag.hostWrite_ne_undef h _⟩

theorem Effect.keepsDefined (e : Effect) (s : State) : KeepsDefined s.flags (e.after s).flags := by
  cases e with
  | fault f => exact .refl _
  | status r w carry of => simp [KeepsDefined, Effect.after]
  | product p w => simp [KeepsDefined, Effect.after]
  | value result => exact .refl _

/-- Only a shift by a non-zero count takes the value of OF away. -/
theorem Effect.shiftsByNonzero {i : Instr} {e : Effect} (hfits : e.Fits i) {s : State}
    (hs : s.flags.of ≠ .undef) (ht : (e.after s).flags.of = .undef) : ShiftsByNonzero i := by
  cases e with
  | fault f => exact absurd ht hs
  | status r w carry of => exact hfits.2 ht
  | product p w => simp [Effect.after] at ht
  | value result => exact absurd ht hs

/-- What a step does to the flags' definedness, by the host's move. -/
theorem step_keepsDefined {s t : State} (h : step s = .next t) :
    KeepsDefined s.flags t.flags ∧ (s.flags.of ≠ .undef → t.flags.of = .undef →
      ∃ r rest i, s.pending = .request r :: rest ∧ decode r = .ok i ∧ ShiftsByNonzero i) := by
  obtain ⟨-, hs⟩ | ⟨w, rest, -, hs⟩ | ⟨r, rest, hp, hs⟩ := step_cases s
  · cases hs.symm.trans h
    exact ⟨.refl _, fun hdef hundef => absurd hundef hdef⟩
  · cases hs.symm.trans h
    exact ⟨keepsDefined_hostWriteFlags _ _,
      fun hdef hundef => absurd hundef (Flag.hostWrite_ne_undef hdef _)⟩
  · obtain ⟨e, -, rfl⟩ | ⟨i, hd, hi⟩ := issue_next_cases (hs.symm.trans h)
    · exact ⟨.refl _, fun hdef hundef => absurd hundef hdef⟩
    · obtain ⟨e, hfits, rfl⟩ := exec_next_effect hi
      exact ⟨e.keepsDefined (s.withMoves rest), fun hdef hundef =>
        ⟨r, rest, i, hp, hd, Effect.shiftsByNonzero hfits (s := s.withMoves rest) hdef hundef⟩⟩

end Sys2Proof.Machine

namespace Sys2Proof.Proofs

open Sys2Proof Sys2Proof.Machine Sys2Proof.Safety

/-- Settles O14, from the two ways a request ends and the six codes. -/
theorem faultPortShowsOneCode : Obligations.FaultPortShowsOneCode := by
  intro r s t h
  have hends := issue_ends r (impl_of_issue_next h)
  rw [h] at hends
  cases hends with
  | result F result => exact .inl ⟨rfl, ⟨result, rfl⟩, rfl⟩
  | fault f => exact .inr ⟨f, f.code, by cases f <;> decide, rfl, rfl, rfl⟩

/-- Settles O21, from the two ways an operation ends. -/
theorem operationTouchesOnlyItsOutputs : Obligations.OperationTouchesOnlyItsOutputs := by
  intro i s t h
  have hends := exec_ends i s
  rw [h] at hends
  cases hends with
  | result F result => exact ⟨rfl, rfl, .inl ⟨result, rfl, rfl⟩⟩
  | fault f => exact ⟨rfl, rfl, .inr ⟨f, rfl, rfl, rfl⟩⟩

/-- Settles O22: the two states meet the same effect, which writes a flag from the request alone or
leaves it. -/
theorem onlyAdcAndSbbReadAFlag : Obligations.OnlyAdcAndSbbReadAFlag := by
  intro i s₁ s₂ t₁ t₂ hcf h₁ h₂
  obtain ⟨e, -, he⟩ := exec_effect i s₂.flags.cf
  cases (he s₁ hcf).symm.trans h₁
  cases (he s₂ fun _ => rfl).symm.trans h₂
  cases e with
  | fault f => simp [Effect.after]
  | status r w carry of => simp [Effect.after]
  | product p w => simp [Effect.after]
  | value result => simp [Effect.after]

/-- Settles O23, effect by effect. -/
theorem statusFlagsDescribeTheResult : Obligations.StatusFlagsDescribeTheResult := by
  intro i s t h
  obtain ⟨e, hfits, rfl⟩ := exec_next_effect h
  cases e with
  | fault f => exact ⟨fun _ _ _ _ ht => (nomatch ht), fun _ => ⟨rfl, rfl, rfl⟩⟩
  | status r w carry of =>
    obtain ⟨⟨hwrites, hw, -⟩, -⟩ := hfits
    refine ⟨fun w' result _ hw' ht => ?_, ?_⟩
    · cases Width.field_injective (hw.symm.trans hw')
      cases ht
      exact resultFlags_status r w _ _
    · rintro (hn | ⟨f, hf⟩)
      · exact absurd hwrites hn
      · cases hf
  | product p w => exact ⟨fun _ _ hs => absurd hs hfits.1, fun _ => ⟨rfl, rfl, rfl⟩⟩
  | value result => exact ⟨fun _ _ hs => absurd hs hfits.1, fun _ => ⟨rfl, rfl, rfl⟩⟩

/-- Settles O24, from what a step does to the flags' definedness and the codes of the shifts. -/
theorem onlyShiftsMakeAFlagUndefined : Obligations.OnlyShiftsMakeAFlagUndefined := by
  intro s t h
  obtain ⟨⟨hcf, hpf, hzf, hsf⟩, hof⟩ := step_keepsDefined h
  refine ⟨hcf, hpf, hzf, hsf, fun hdef hundef => ?_⟩
  obtain ⟨r, rest, i, hp, hd, src, dest, width, hshift, hn⟩ := hof hdef hundef
  obtain ⟨rfl, hop⟩ := decode_shift hd hshift
  exact ⟨r, rest, hp, hn, hop⟩

/-- Settles O25, effect by effect. -/
theorem resultFitsItsWidth : Obligations.ResultFitsItsWidth := by
  intro i s t result h ht
  obtain ⟨e, hfits, rfl⟩ := exec_next_effect h
  cases e with
  | fault f => cases ht
  | status r w carry of =>
    obtain ⟨⟨-, hw, hb⟩, -⟩ := hfits
    cases ht
    rw [hb, hw, Width.field_toNat]
    exact resultMasked_lt r w
  | product p w => cases ht; exact hfits.2
  | value p => cases ht; exact hfits.2

/-- Settles O44, bit by bit from the image of five bits. -/
theorem flagPortsShowTheFlags : Obligations.FlagPortsShowTheFlags := by
  intro F i
  simp only [flagsPort, flagsDefPort, flagImage_getLsbD, Flag.bit_eq_true, Flag.defined_eq_true,
    and_self]

/-- Settles O4, by the step on a request and the request that decodes. -/
theorem stepRunsDecodedOperation : Obligations.StepRunsDecodedOperation :=
  fun s _ rest _ himpl hp hd =>
    (step_of_request hp).trans (issue_of_decode (s := s.withMoves rest) himpl hd)

/-- Settles O5. -/
theorem stepPerformsNextRequest : Obligations.StepPerformsNextRequest :=
  fun _ _ _ hp => step_of_request hp

/-- Settles O6. -/
theorem stepWithoutMovesIsIdle : Obligations.StepWithoutMovesIsIdle := fun _ hp => step_of_no_moves hp

/-- Settles O7, by the step on a flag write and each flag's own write. -/
theorem hostFlagWriteSetsChosenFlags : Obligations.HostFlagWriteSetsChosenFlags := by
  intro s w rest hp
  rw [step_of_writeFlags hp]
  simp only [State.afterHostWrite, hostWriteFlags, Flag.hostWrite_eq_elim, State.withMoves]

end Sys2Proof.Proofs

/-! ### The product and its halves (20_memory.md R49, 42_mul_div.md R111, R112) -/

namespace Sys2Proof.Machine

open Sys2Proof Sys2Proof.Safety

theorem exec_mul_field (w : Width) (src dest : Port) (s : State) :
    exec (.mul src dest w.field) s =
      let p := unsignedOperand (operand src) w * unsignedOperand (operand dest) w
      .next (s.afterResult (mulFlags s.flags p w) p) :=
  withWidth_field w s _

theorem exec_imul_field (w : Width) (src dest : Port) (s : State) :
    exec (.imul src dest w.field) s =
      .next (s.afterResult s.flags
        (signedOperand (operand src) w * signedOperand (operand dest) w)) :=
  withWidth_field w s _

theorem unsignedOperand_toNat (p : Port) (w : Width) :
    (unsignedOperand (operand p) w).toNat = unsignedAt w p := by
  rw [unsignedOperand, BitVec.toNat_setWidth_of_le (by decide), mask_operand_toNat, unsignedAt]

theorem setWidth_operand (p : Port) (w : Width) :
    (operand p).setWidth w.bits = p.setWidth w.bits := by
  rw [operand, ← BitVec.setWidth_eq_extractLsb' (by decide),
    BitVec.setWidth_setWidth_of_le p (Width.bits_le w)]

theorem signedOperand_toInt (p : Port) (w : Width) :
    (signedOperand (operand p) w).toInt = signedAt w p := by
  rw [signedOperand, setWidth_operand, signedAt,
    BitVec.toInt_signExtend_of_le ((Width.bits_le w).trans (by decide))]

/-- 64 bits hold the product of two w-bit numbers. -/
theorem unsignedProduct_toNat (src dest : Port) (w : Width) :
    (unsignedOperand (operand src) w * unsignedOperand (operand dest) w).toNat =
      unsignedAt w src * unsignedAt w dest := by
  have hlt (p : Port) := (unsignedOperand_lt (operand p) w).trans_le
    (Nat.pow_le_pow_right two_pos (Width.bits_le w))
  rw [BitVec.toNat_mul_of_lt (Nat.mul_lt_mul'' (hlt src) (hlt dest)), unsignedOperand_toNat,
    unsignedOperand_toNat]

/-- The signed numbers of 2w bits, −2^(2w−1) … 2^(2w−1)−1. -/
def InDoubleRange (w : Width) (x : Int) : Prop :=
  -2 ^ (2 * w.bits - 1) ≤ x ∧ x < 2 ^ (2 * w.bits - 1)

theorem inDoubleRange_signedAt_mul (w : Width) (p q : Port) :
    InDoubleRange w (signedAt w p * signedAt w q) := by
  have hlow : -2 ^ (w.bits * 2 - 2) ≤ signedAt w p * signedAt w q := BitVec.le_toInt_mul_toInt
  have hhigh : signedAt w p * signedAt w q ≤ 2 ^ (w.bits * 2 - 2) := BitVec.toInt_mul_toInt_le
  have hpow : (2 : Int) ^ (w.bits * 2 - 2) < 2 ^ (2 * w.bits - 1) :=
    pow_lt_pow_right₀ (by decide) (by have := Width.bits_pos w; omega)
  constructor <;> omega

/-- 64 bits hold the signed product of two w-bit numbers. -/
theorem signedProduct_toInt (src dest : Port) (w : Width) :
    (signedOperand (operand src) w * signedOperand (operand dest) w).toInt =
      signedAt w src * signedAt w dest := by
  obtain ⟨hlow, hhigh⟩ := inDoubleRange_signedAt_mul w src dest
  have hpow : (2 : Int) ^ (2 * w.bits - 1) ≤ 2 ^ 63 :=
    pow_le_pow_right₀ (by decide) (by have := Width.bits_le w; omega)
  rw [BitVec.toInt_mul, signedOperand_toInt, signedOperand_toInt]
  exact Int.bmod_eq_of_le_mul_two (by push_cast; omega) (by push_cast; omega)

theorem unsignedAt_eq_toInt_emod (w : Width) (p : Port) :
    (unsignedAt w p : Int) = p.toInt % (2 ^ w.bits : Nat) := by
  have hdvd : ((2 ^ w.bits : Nat) : Int) ∣ (2 ^ 64 : Nat) :=
    Int.natCast_dvd_natCast.mpr (Nat.pow_dvd_pow 2 ((Width.bits_le w).trans (by decide)))
  rw [BitVec.toInt_eq_toNat_bmod, ← Int.emod_emod_of_dvd _ hdvd, Int.bmod_emod,
    Int.emod_emod_of_dvd _ hdvd, unsignedAt, Int.natCast_emod]

theorem signedAt_eq_toInt_bmod (w : Width) (p : Port) :
    signedAt w p = p.toInt.bmod (2 ^ w.bits) := by
  rw [← Int.emod_bmod, ← unsignedAt_eq_toInt_emod, unsignedAt, Int.natCast_emod, Int.emod_bmod,
    signedAt, BitVec.toInt_setWidth]

/-- The w bits above the low w bits are the same under a logical and an arithmetic shift. -/
theorem signedAt_ushiftRight (w : Width) (p : Port) :
    signedAt w (p >>> w.bits) = signedAt w (p.sshiftRight w.bits) := by
  have hle := Width.bits_le w
  have hbits : (p >>> w.bits).setWidth w.bits = (p.sshiftRight w.bits).setWidth w.bits := by
    refine BitVec.eq_of_getLsbD_eq fun i hi => ?_
    simp [BitVec.getLsbD_sshiftRight, hi, show w.bits + i < 64 by omega, show ¬ 64 ≤ i by omega]
  rw [signedAt, signedAt, hbits]

/-- The signed high half of a signed number of 2w bits is its quotient by 2^w. -/
theorem signedAt_highHalf {w : Width} {p : Port} (h : InDoubleRange w p.toInt) :
    signedAt w (p >>> w.bits) = p.toInt / (2 ^ w.bits : Nat) := by
  obtain ⟨hlow, hhigh⟩ := h
  have hpos : (0 : Int) < (2 ^ w.bits : Nat) := Int.natCast_pos.mpr (Nat.two_pow_pos _)
  have hhalf : ((2 ^ w.bits : Nat) : Int) = 2 ^ (w.bits - 1) * 2 := by
    push_cast
    exact (pow_sub_one_mul (Width.bits_pos w).ne' 2).symm
  have hsplit : (2 : Int) ^ (2 * w.bits - 1) = 2 ^ (w.bits - 1) * (2 ^ w.bits : Nat) := by
    push_cast
    rw [← pow_add]
    congr 1
    have := Width.bits_pos w
    omega
  rw [hsplit] at hlow hhigh
  have hge : -2 ^ (w.bits - 1) ≤ p.toInt / (2 ^ w.bits : Nat) :=
    (Int.le_ediv_iff_mul_le hpos).mpr (by rwa [Int.neg_mul])
  have hlt : p.toInt / (2 ^ w.bits : Nat) < 2 ^ (w.bits - 1) :=
    (Int.ediv_lt_iff_lt_mul hpos).mpr hhigh
  rw [signedAt_ushiftRight, signedAt_eq_toInt_bmod, BitVec.toInt_sshiftRight,
    Int.shiftRight_eq_div_pow]
  exact Int.bmod_eq_of_le_mul_two (by omega) (by omega)

/-- A number below 2^(2w) is its low half and 2^w times its high half. -/
theorem unsignedAt_halves {w : Width} {p : Port} (h : p.toNat < 2 ^ (2 * w.bits)) :
    unsignedAt w p + 2 ^ w.bits * unsignedAt w (p >>> w.bits) = p.toNat := by
  have hhigh : p.toNat / 2 ^ w.bits < 2 ^ w.bits :=
    Nat.div_lt_of_lt_mul (by rwa [← pow_add, ← two_mul])
  rw [unsignedAt, unsignedAt, BitVec.toNat_ushiftRight, Nat.shiftRight_eq_div_pow,
    Nat.mod_eq_of_lt hhigh, Nat.mod_add_div]

/-- A signed number of 2w bits is its unsigned low half and 2^w times its signed high half. -/
theorem signedAt_halves {w : Width} {p : Port} (h : InDoubleRange w p.toInt) :
    (unsignedAt w p : Int) + 2 ^ w.bits * signedAt w (p >>> w.bits) = p.toInt := by
  rw [signedAt_highHalf h, unsignedAt_eq_toInt_emod]
  exact_mod_cast Int.emod_add_mul_ediv p.toInt (2 ^ w.bits : Nat)

end Sys2Proof.Machine

namespace Sys2Proof.Proofs

open Sys2Proof Sys2Proof.Machine Sys2Proof.Safety

/-- Settles O34, from the products' exact values and the halves of a number of 2w bits. -/
theorem productSplitsIntoHalves : Obligations.ProductSplitsIntoHalves := by
  intro w src dest s
  refine ⟨⟨_, _, exec_mul_field w src dest s, rfl, ?_⟩,
    ⟨_, _, exec_imul_field w src dest s, rfl, ?_⟩⟩
  · rw [unsignedAt_halves (unsignedProduct_lt _ _ w), unsignedProduct_toNat]
  · have hrange := inDoubleRange_signedAt_mul w src dest
    rw [← signedProduct_toInt] at hrange ⊢
    exact signedAt_halves hrange

end Sys2Proof.Proofs

/-! ### Encoding and decoding (30_encoding.md R59 to R66, R72, R77) -/

namespace Sys2Proof.Laws

open Sys2Proof Sys2Proof.Machine Sys2Proof.Laws.EncodedFields

/-- What `encode` does, said once for the seventeen operations (30_encoding.md R59, R63). -/
theorem encode_eq {i : Instr} {src dest : Port} {width : BitVec 6}
    (h : fields i = (src, dest, width)) : encode i = ⟨controlWord width (opcode i), src, dest⟩ := by
  cases i <;> cases h <;> rfl

/-- The decoder knows the code of every operation (30_encoding.md R63). -/
theorem decodeOp_opcode {i : Instr} {src dest : Port} {width : BitVec 6}
    (h : fields i = (src, dest, width)) : decodeOp (opcode i) src dest width = .ok i := by
  cases i <;> cases h <;> rfl

theorem decode_encode (i : Instr) : decode (encode i) = .ok i := by
  obtain ⟨⟨src, dest, width⟩, hf⟩ : ∃ f, fields i = f := ⟨_, rfl⟩
  obtain ⟨hrsv, hwidth, hop⟩ := controlWord_fields width (opcode i)
  rw [encode_eq hf, decode, if_pos hrsv, hwidth, hop, decodeOp_opcode hf]

/-- A control word without reserved bits is put together from its WIDTH and OP (30_encoding.md R59). -/
theorem controlWord_cwWidth_cwOp {cw : BitVec 16} (h : cwRsv cw = 0#5) :
    controlWord (cwWidth cw) (cwOp cw) = cw := by
  refine BitVec.eq_of_getLsbD_eq fun i hi => ?_
  have hrsv : 11 ≤ i → cw[i] = false := fun hge => by
    have hbit := congrArg (BitVec.getLsbD · (i - 11)) h
    simpa [cwRsv, show i - 11 < 5 by omega, show 11 + (i - 11) = i by omega,
      BitVec.getLsbD_eq_getElem hi] using hbit
  obtain hop | ⟨hlow, hwidth⟩ | hge : i < 5 ∨ (5 ≤ i ∧ i < 11) ∨ 11 ≤ i := by omega
  · simp [controlWord, cwOp, hi, hop]
  · simp [controlWord, cwWidth, cwOp, hi, show ¬ i < 5 by omega, show i - 5 < 6 by omega,
      show 5 + (i - 5) = i by omega]
  · simp [controlWord, cwWidth, cwOp, hi, show ¬ i < 5 by omega, show ¬ i - 5 < 6 by omega, hrsv hge]

theorem encode_of_decode {r : Request} {i : Instr} (h : decode r = .ok i) : encode i = r := by
  obtain ⟨hrsv, hop, hf⟩ := decode_ok h
  rw [encode_eq hf, ← hop, controlWord_cwWidth_cwOp hrsv]

/-- A code above 16 is no operation's (30_encoding.md R64). -/
theorem decodeOp_eq_illegalOp {op : BitVec 5} (h : 16 < op.toNat) (src dest : Port)
    (width : BitVec 6) : decodeOp op src dest width = .error .illegalOp := by
  unfold decodeOp
  split
  case h_18 => rfl
  all_goals omega

/-- Reserved bits are checked before the operation code (30_encoding.md R62, R72). -/
theorem decode_eq_reservedControlBits {r : Request} (h : cwRsv r.cw ≠ 0#5) :
    decode r = .error .reservedControlBits := if_neg h

theorem decode_eq_illegalOp {r : Request} (hrsv : cwRsv r.cw = 0#5) (hop : 16 < (cwOp r.cw).toNat) :
    decode r = .error .illegalOp := (if_pos hrsv).trans (decodeOp_eq_illegalOp hop _ _ _)

end Sys2Proof.Laws

namespace Sys2Proof.Machine

open Sys2Proof Sys2Proof.Safety

theorem issue_of_decode_error {r : Request} {s : State} {e : DecodeError}
    (himpl : s.impl = .localImpl) (hd : decode r = .error e) :
    issue r s = .next (faulted s (.ofDecodeError e)) := by
  simp only [issue, himpl, hd]
  rfl

/-- Every operation with an ill-formed WIDTH faults before it computes (60_exceptions.md R133). -/
theorem exec_of_not_wellFormed {i : Instr} (h : i.wellFormed = false) (s : State) :
    exec i s = .next (faulted s .invalidWidth) := by
  cases i with
  | mod | imod => cases h
  | _ => exact withWidth_illegal h s _

end Sys2Proof.Machine

namespace Sys2Proof.Proofs

open Sys2Proof Sys2Proof.Machine Sys2Proof.Safety Sys2Proof.Laws

/-- Settles O1, from the fields of a control word and the operation codes. -/
theorem decodeReadsBackEncode : Obligations.DecodeReadsBackEncode := decode_encode

/-- Settles O2, from the fields of an accepted request. -/
theorem acceptedRequestIsEncoding : Obligations.AcceptedRequestIsEncoding :=
  fun _ _ => encode_of_decode

/-- Settles O3: the five good words are encodings, and each bad word meets its check. -/
theorem workedEncodings : Obligations.WorkedEncodings := by
  refine ⟨decode_encode (.add 0xFF#64 0x01#64 8#6), rfl, decode_encode (.adc 0x2#64 0x1#64 32#6),
    decode_encode (.sar 0x1#64 0xFF#64 8#6), decode_encode (.mod 0x7#64 0x100#64 8#6),
    decode_encode (.mod 0x7#64 0x100#64 0#6), fun src dest s himpl => ⟨?_, ?_, ?_⟩⟩
  · have hd : decode ⟨0x0011#16, src, dest⟩ = .error .illegalOp :=
      decode_eq_illegalOp (by decide : cwRsv 0x0011#16 = 0#5) (by decide : 16 < (cwOp 0x0011#16).toNat)
    exact issue_of_decode_error himpl hd
  · have hd : decode ⟨0x0000#16, src, dest⟩ = .ok (.add src dest 0#6) :=
      decode_encode (.add src dest 0#6)
    have hwidth : (Instr.add src dest 0#6).wellFormed = false := (by decide : legalWidth 0#6 = false)
    exact (issue_of_decode himpl hd).trans (exec_of_not_wellFormed hwidth s)
  · have hd : decode ⟨0x0900#16, src, dest⟩ = .error .reservedControlBits :=
      decode_eq_reservedControlBits (by decide : cwRsv 0x0900#16 ≠ 0#5)
    exact issue_of_decode_error himpl hd

end Sys2Proof.Proofs

/-! ### What WIDTH is to the divisions (30_encoding.md R66) -/

namespace Sys2Proof.Machine

open Sys2Proof Sys2Proof.Safety

theorem complete_ne_faulted (F : Flags) (result : Port) (s : State) (f : Fault) :
    complete F result s ≠ .next (faulted s f) := by
  simp [complete_eq, faulted, State.afterResult]

theorem raiseFault_ne_faulted {f g : Fault} (h : f ≠ g) (s : State) :
    raiseFault f s ≠ .next (faulted s g) := by
  simp [raiseFault_eq, faulted, State.afterFault, h]

theorem withDivisor_ne_of {src : Port} {s : State} {body o : Host.Outcome State Fault Refusal}
    (hfault : raiseFault .divideByZero s ≠ o) (hbody : body ≠ o) : withDivisor src s body ≠ o := by
  unfold withDivisor
  split
  · exact hfault
  · exact hbody

theorem withSignedQuotient_ne_of {src dest : Port} {s : State}
    {body o : Host.Outcome State Fault Refusal} (hfault : raiseFault .divideOverflow s ≠ o)
    (hbody : body ≠ o) : withSignedQuotient src dest s body ≠ o := by
  unfold withSignedQuotient
  split
  · exact hfault
  · exact hbody

/-- idiv at a legal width does not use the width (42_mul_div.md R114). -/
theorem exec_idiv_field (w : Width) (src dest : Port) (s : State) :
    exec (.idiv src dest w.field) s =
      withDivisor src s (withSignedQuotient src dest s
        (complete s.flags (resultHost (BitVec.ofInt 32 (Int.tdiv dest.toInt src.toInt))) s)) :=
  withWidth_field w s _

theorem exec_mod_ne_invalidWidth (src dest : Port) (width : BitVec 6) (s : State) :
    exec (.mod src dest width) s ≠ .next (faulted s .invalidWidth) :=
  withDivisor_ne_of (raiseFault_ne_faulted (by decide) s) (complete_ne_faulted _ _ s _)

theorem exec_imod_ne_invalidWidth (src dest : Port) (width : BitVec 6) (s : State) :
    exec (.imod src dest width) s ≠ .next (faulted s .invalidWidth) :=
  withDivisor_ne_of (raiseFault_ne_faulted (by decide) s)
    (withSignedQuotient_ne_of (raiseFault_ne_faulted (by decide) s) (complete_ne_faulted _ _ s _))

end Sys2Proof.Machine

namespace Sys2Proof.Proofs

open Sys2Proof Sys2Proof.Machine Sys2Proof.Safety

/-- Settles O27: mod and imod make no width check, and what idiv does after its own is the same at
every width. -/
theorem modIgnoresWidthIdivOnlyChecksIt : Obligations.ModIgnoresWidthIdivOnlyChecksIt :=
  ⟨fun src dest n _ s =>
    ⟨rfl, rfl, exec_mod_ne_invalidWidth src dest n s, exec_imod_ne_invalidWidth src dest n s⟩,
  fun src dest s =>
    ⟨fun w w' => (exec_idiv_field w src dest s).trans (exec_idiv_field w' src dest s).symm,
      fun n hn => exec_of_not_wellFormed (i := .idiv src dest n) hn s⟩⟩

end Sys2Proof.Proofs

/-! ### Operands at width w (30_encoding.md R68, R69) -/

namespace Sys2Proof.Machine

open Sys2Proof Sys2Proof.Safety

theorem mask_eq_setWidth (v : Word) (w : Width) : mask v w = (v.setWidth w.bits).setWidth 32 := by
  refine BitVec.eq_of_toNat_eq ?_
  rw [mask_toNat, BitVec.toNat_setWidth_of_le (Width.bits_le w), BitVec.toNat_setWidth]

theorem sx_eq_signExtend (v : Word) (w : Width) : sx v w = (v.setWidth w.bits).signExtend 32 := by
  have hp := Width.bits_pos w
  refine BitVec.eq_of_getLsbD_eq fun i hi => ?_
  rw [sx_getLsbD v w hi, BitVec.getLsbD_signExtend, BitVec.msb_setWidth]
  by_cases hlt : i < w.bits
  · simp [hi, hlt, show min i (w.bits - 1) = i by omega]
  · simp [hi, hlt, hp, show min i (w.bits - 1) = w.bits - 1 by omega]

/-- Two words with the same low w bits: no rule but those of the division family, which read whole ports
(30_encoding.md R70), tells them apart at width w (R68). -/
def SameLow (w : Width) (a b : Word) : Prop := a.setWidth w.bits = b.setWidth w.bits

theorem sameLow_operand {w : Width} {p q : Port} (h : unsignedAt w p = unsignedAt w q) :
    SameLow w (operand p) (operand q) := by
  rw [SameLow, setWidth_operand, setWidth_operand]
  exact BitVec.eq_of_toNat_eq (by simpa [unsignedAt] using h)

/-! The raw results keep the relation. -/

section RawResults

variable {w : Width} {a a' d d' : Word}

theorem SameLow.not (h : SameLow w a a') : SameLow w (~~~a) (~~~a') := by
  have hle := Width.bits_le w
  rw [SameLow, BitVec.setWidth_not hle, BitVec.setWidth_not hle, h]

theorem SameLow.carryPropagator (ha : SameLow w a a') (hd : SameLow w d d') (c : Bool) :
    SameLow w (carryPropagator a d c) (carryPropagator a' d' c) := by
  have hle := Width.bits_le w
  simp only [SameLow] at ha hd ⊢
  simp only [Machine.carryPropagator, BitVec.setWidth_add _ _ hle, ha, hd]

theorem SameLow.and (ha : SameLow w a a') (hd : SameLow w d d') : SameLow w (a &&& d) (a' &&& d') := by
  rw [SameLow, BitVec.setWidth_and, BitVec.setWidth_and, ha, hd]

theorem SameLow.or (ha : SameLow w a a') (hd : SameLow w d d') : SameLow w (a ||| d) (a' ||| d') := by
  rw [SameLow, BitVec.setWidth_or, BitVec.setWidth_or, ha, hd]

theorem SameLow.xor (ha : SameLow w a a') (hd : SameLow w d d') : SameLow w (a ^^^ d) (a' ^^^ d') := by
  rw [SameLow, BitVec.setWidth_xor, BitVec.setWidth_xor, ha, hd]

theorem SameLow.shiftLeft (hd : SameLow w d d') (n : Nat) : SameLow w (d <<< n) (d' <<< n) := by
  have hle := Width.bits_le w
  rw [SameLow, BitVec.setWidth_shiftLeft_of_le hle, BitVec.setWidth_shiftLeft_of_le hle, hd]

end RawResults

/-! What the rules read of a word, they read of its low w bits. -/

section Readings

variable {w : Width} {a a' d d' r r' : Word}

theorem SameLow.mask_eq (h : SameLow w a a') : mask a w = mask a' w := by
  rw [mask_eq_setWidth, mask_eq_setWidth, h]

theorem SameLow.sx_eq (h : SameLow w a a') : sx a w = sx a' w := by
  rw [sx_eq_signExtend, sx_eq_signExtend, h]

theorem SameLow.topBit_eq (h : SameLow w a a') :
    a.getLsbD (w.bits - 1) = a'.getLsbD (w.bits - 1) := by
  have hp := Width.bits_pos w
  simpa only [BitVec.msb_setWidth, hp, decide_true, Bool.true_and] using congrArg BitVec.msb h

theorem SameLow.unsignedOperand_eq (h : SameLow w a a') : unsignedOperand a w = unsignedOperand a' w :=
  congrArg (BitVec.setWidth 64) h.mask_eq

theorem SameLow.signedOperand_eq (h : SameLow w a a') : signedOperand a w = signedOperand a' w :=
  congrArg (BitVec.signExtend 64) h

theorem SameLow.resultMasked_eq (h : SameLow w r r') : resultMasked r w = resultMasked r' w :=
  congrArg resultHost h.mask_eq

theorem SameLow.resultFlags_eq (h : SameLow w r r') (cf of : Flag) :
    resultFlags r w cf of = resultFlags r' w cf of := by
  have hpf : parityFlag r = parityFlag r' := by
    rw [parityFlag_eq r w, parityFlag_eq r' w, ← mask_toNat, ← mask_toNat, h.mask_eq]
  simp only [resultFlags, hpf, zeroFlag, h.mask_eq, signFlag, h.sx_eq]

theorem SameLow.overflowAdd_eq (hr : SameLow w r r') (ha : SameLow w a a') (hd : SameLow w d d') :
    overflowAdd r a d w = overflowAdd r' a' d' w := by
  simp only [overflowAdd, hr.sx_eq, ha.sx_eq, hd.sx_eq]

theorem SameLow.addFlags_eq (hr : SameLow w r r') (ha : SameLow w a a') (hd : SameLow w d d')
    (cf : Bool) : addFlags r a d w cf = addFlags r' a' d' w cf := by
  simp only [addFlags, hr.overflowAdd_eq ha hd, hr.resultFlags_eq]

theorem SameLow.subFlags_eq (hr : SameLow w r r') (ha : SameLow w a a') (hd : SameLow w d d')
    (cf : Bool) : subFlags r a d w cf = subFlags r' a' d' w cf :=
  hr.addFlags_eq ha.not hd cf

theorem SameLow.logicResult_eq (h : SameLow w r r') (s : State) :
    logicResult r w s = logicResult r' w s := by
  simp only [logicResult, logicFlags, h.resultFlags_eq, h.resultMasked_eq]

end Readings

/-! The operations, at ports that agree in their low w bits. -/

section Operations

variable {w : Width} {src src' dest dest' : Port}

theorem subtract_congr (ha : SameLow w (operand src) (operand src'))
    (hd : SameLow w (operand dest) (operand dest')) (s : State) :
    subtract src dest w s = subtract src' dest' w s := by
  have hr := hd.carryPropagator ha.not true
  simp only [subtract, hr.subFlags_eq ha hd, carrySub, hr.sx_eq, hd.sx_eq, hr.resultMasked_eq]

/-- Shifts with the same count whose raw results and carries agree at every count. -/
theorem shiftBy_congr (hn : shiftCount src = shiftCount src')
    (hd : SameLow w (operand dest) (operand dest')) {raw raw' : Nat → Word}
    (hraw : ∀ n, SameLow w (raw n) (raw' n)) {carry carry' : Nat → Bool}
    (hcarry : ∀ n, carry n = carry' n) (s : State) :
    shiftBy src dest w raw carry s = shiftBy src' dest' w raw' carry' s := by
  simp only [shiftBy, hn, hd.resultMasked_eq, shiftFlags, (hraw _).resultFlags_eq, hcarry,
    (hraw _).resultMasked_eq]

theorem shiftLeft_congr (hn : shiftCount src = shiftCount src')
    (hd : SameLow w (operand dest) (operand dest')) (s : State) :
    shiftLeft src dest w s = shiftLeft src' dest' w s :=
  shiftBy_congr hn hd hd.shiftLeft (fun n => (hd.shiftLeft (n - 1)).topBit_eq) s

/-- Two operations at one legal width agree when their bodies do at that width. -/
theorem withWidth_field_congr {s : State} {body body' : Width → Host.Outcome State Fault Refusal}
    (h : body w = body' w) : withWidth w.field s body = withWidth w.field s body' := by
  rw [withWidth_field, withWidth_field, h]

theorem exec_add_congr (ha : SameLow w (operand src) (operand src'))
    (hd : SameLow w (operand dest) (operand dest')) (s : State) :
    exec (.add src dest w.field) s = exec (.add src' dest' w.field) s := by
  have hr := ha.carryPropagator hd false
  refine withWidth_field_congr ?_
  simp only [hr.addFlags_eq ha hd, carryAdd, hr.sx_eq, ha.sx_eq, hr.resultMasked_eq]

theorem exec_adc_congr (ha : SameLow w (operand src) (operand src'))
    (hd : SameLow w (operand dest) (operand dest')) (s : State) :
    exec (.adc src dest w.field) s = exec (.adc src' dest' w.field) s := by
  have hr := ha.carryPropagator hd
  refine withWidth_field_congr (congrArg (withCarry s) (funext fun c => ?_))
  simp only [(hr c).addFlags_eq ha hd, carryAdc, (hr c).sx_eq, ha.sx_eq, (hr c).resultMasked_eq]

theorem exec_sbb_congr (ha : SameLow w (operand src) (operand src'))
    (hd : SameLow w (operand dest) (operand dest')) (s : State) :
    exec (.sbb src dest w.field) s = exec (.sbb src' dest' w.field) s := by
  have hr := hd.carryPropagator ha.not false
  refine withWidth_field_congr (congrArg (withCarry s) (funext fun c => ?_))
  simp only [hr.subFlags_eq ha hd, carrySbb, hr.sx_eq, hd.sx_eq, hr.resultMasked_eq,
    subtract_congr ha hd]

end Operations

end Sys2Proof.Machine

namespace Sys2Proof.Proofs

open Sys2Proof Sys2Proof.Machine Sys2Proof.Safety

/-- Settles O26: the raw results keep the low w bits' agreement, and results and flags read nothing
else of them. -/
theorem highOperandBitsAreIgnored : Obligations.HighOperandBitsAreIgnored := by
  intro w src src' dest dest' s hdest
  have hd := sameLow_operand hdest
  refine ⟨fun hsrc => ?_, fun hcount => ?_⟩
  · have ha := sameLow_operand hsrc
    refine ⟨exec_add_congr ha hd s, exec_adc_congr ha hd s,
      withWidth_field_congr (subtract_congr ha hd s), exec_sbb_congr ha hd s,
      withWidth_field_congr ?mul, withWidth_field_congr ?imul,
      withWidth_field_congr ((ha.and hd).logicResult_eq s),
      withWidth_field_congr ((ha.or hd).logicResult_eq s),
      withWidth_field_congr ((ha.xor hd).logicResult_eq s)⟩
    case mul => simp only [ha.unsignedOperand_eq, hd.unsignedOperand_eq]
    case imul => simp only [ha.signedOperand_eq, hd.signedOperand_eq]
  · have hn : shiftCount src = shiftCount src' := by rw [shiftCount_eq, shiftCount_eq, hcount]
    refine ⟨withWidth_field_congr (shiftLeft_congr hn hd s), withWidth_field_congr ?shr,
      withWidth_field_congr ?sar, withWidth_field_congr (shiftLeft_congr hn hd s)⟩
    case shr => simp only [shiftBy, hn, hd.mask_eq, hd.resultMasked_eq]
    case sar => simp only [shiftBy, hn, hd.sx_eq, hd.resultMasked_eq]

end Sys2Proof.Proofs

/-! ### The invariant of a run without host flag writes (40_units.md R86 to R88, 60_exceptions.md R140) -/

namespace Sys2Proof.Machine

open Sys2Proof Sys2Proof.Safety

/-- A zero result has even parity and no sign (40_units.md R86 to R88). -/
theorem parity_sign_of_zeroFlag {r : Word} {w : Width} (h : zeroFlag r w = true) :
    parityFlag r = true ∧ signFlag r w = false := by
  rw [zeroFlag_eq, beq_iff_eq] at h
  rw [parityFlag_eq r w, signFlag_eq, h]
  exact ⟨by decide, Nat.zero_testBit _⟩

theorem flagsCoherent_resultFlags (r : Word) (w : Width) (cf of : Flag) :
    FlagsCoherent (resultFlags r w cf of) := by
  refine ⟨fun hzf => ?_, by simp, by simp⟩
  obtain ⟨hpf, hsf⟩ := parity_sign_of_zeroFlag ((Flag.ofBool_eq_one _).mp hzf)
  exact ⟨congrArg Flag.ofBool hpf, congrArg Flag.ofBool hsf⟩

theorem Effect.flagsCoherent (e : Effect) {s : State} (h : FlagsCoherent s.flags) :
    FlagsCoherent (e.after s).flags := by
  cases e with
  | fault f => exact h
  | status r w carry of => exact flagsCoherent_resultFlags r w _ of
  | product p w => exact h
  | value result => exact h

end Sys2Proof.Machine

namespace Sys2Proof.Safety

open Sys2Proof Sys2Proof.Machine

theorem Inv.withMoves_tail {s : State} {m : HostMove} {rest : List HostMove} (h : Inv s)
    (hp : s.pending = m :: rest) : Inv (s.withMoves rest) := by
  obtain ⟨hmoves, hrest⟩ := h
  exact ⟨fun m' hm' => hmoves m' (hp ▸ List.mem_cons_of_mem m hm'), hrest⟩

/-- The fault shown is the one just appended (60_exceptions.md R140). -/
theorem Inv.afterFault {s : State} (h : Inv s) (f : Fault) : Inv (s.afterFault f) := by
  obtain ⟨hmoves, hflags, -⟩ := h
  refine ⟨hmoves, hflags, fun g hg => ?_⟩
  cases hg
  exact List.getLast?_concat

theorem Inv.afterResult {s : State} (h : Inv s) {F : Flags} (hF : FlagsCoherent F) (result : Port) :
    Inv (s.afterResult F result) :=
  ⟨h.1, hF, fun _ hf => nomatch hf⟩

theorem Inv.afterEffect {s : State} (h : Inv s) (e : Effect) : Inv (e.after s) := by
  have hF := e.flagsCoherent h.2.1
  cases e with
  | fault f => exact h.afterFault f
  | status r w carry of => exact h.afterResult hF _
  | product p w => exact h.afterResult hF p
  | value result => exact h.afterResult hF result

theorem Inv.issue {r : Request} {s t : State} (h : Inv s) (ht : issue r s = .next t) : Inv t := by
  obtain ⟨e, -, rfl⟩ | ⟨i, -, hi⟩ := issue_next_cases ht
  · exact h.afterFault _
  · obtain ⟨e, -, rfl⟩ := exec_next_effect hi
    exact h.afterEffect e

end Sys2Proof.Safety

namespace Sys2Proof.Proofs

open Sys2Proof Sys2Proof.Machine Sys2Proof.Safety

/-- Settles O45, by the host's move: a flag write is ruled out by the invariant, and a request ends in a
fault of the decoder or in an effect of its operation, each of which keeps the invariant. -/
theorem everyStepKeepsFlagsCoherent : Obligations.EveryStepKeepsFlagsCoherent := by
  intro s t h ht
  obtain ⟨-, hs⟩ | ⟨w, rest, hp, -⟩ | ⟨r, rest, hp, hs⟩ := step_cases s
  · cases hs.symm.trans ht
    exact h
  · obtain ⟨r, hr⟩ := h.1 (.writeFlags w) (hp ▸ List.mem_cons_self)
    cases hr
  · exact (h.withMoves_tail hp).issue (hs ▸ ht)

end Sys2Proof.Proofs

/-! ### Sign-extended views and flag comparisons as numbers (40_units.md R83, R86 to R93) -/

namespace Sys2Proof.Machine

open Sys2Proof Sys2Proof.Safety

theorem sign_sx (v : Word) (w : Width) : sign (sx v w) = v.getLsbD (w.bits - 1) := by
  have hle := Width.bits_le w
  rw [sign, sx_getLsbD v w (by decide), show min 31 (w.bits - 1) = w.bits - 1 by omega]

/-- The view moves the upper half of the w-bit values to the top of the 32-bit values (40_units.md R83). -/
theorem sx_toNat (v : Word) (w : Width) :
    (sx v w).toNat = v.toNat % 2 ^ w.bits +
      if 2 ^ (w.bits - 1) ≤ v.toNat % 2 ^ w.bits then 2 ^ 32 - 2 ^ w.bits else 0 := by
  rw [sx_eq_signExtend, BitVec.toNat_signExtend, BitVec.toNat_setWidth_of_le (Width.bits_le w),
    BitVec.msb_eq_decide, BitVec.toNat_setWidth]
  simp only [decide_eq_true_eq]

/-- The view keeps the order of the w-bit values (40_units.md R83). -/
theorem sx_toNat_lt_iff (a b : Word) (w : Width) :
    (sx a w).toNat < (sx b w).toNat ↔ a.toNat % 2 ^ w.bits < b.toNat % 2 ^ w.bits := by
  rw [sx_toNat, sx_toNat]
  split <;> split <;> omega

theorem sx_ult (a b : Word) (w : Width) :
    (sx a w).ult (sx b w) = decide (a.toNat % 2 ^ w.bits < b.toNat % 2 ^ w.bits) := by
  rw [BitVec.ult_eq_decide, decide_eq_decide, sx_toNat_lt_iff]

theorem sx_ule (a b : Word) (w : Width) :
    (sx a w).ule (sx b w) = !decide (b.toNat % 2 ^ w.bits < a.toNat % 2 ^ w.bits) := by
  rw [BitVec.ule_eq_not_ult, sx_ult]

theorem sx_ult_eq_mask_ult (a b : Word) (w : Width) :
    (sx a w).ult (sx b w) = (mask a w).ult (mask b w) := by
  rw [sx_ult, BitVec.ult_eq_decide, mask_toNat, mask_toNat]

theorem sx_ule_eq_mask_ule (a b : Word) (w : Width) :
    (sx a w).ule (sx b w) = (mask a w).ule (mask b w) := by
  rw [BitVec.ule_eq_not_ult, BitVec.ule_eq_not_ult, sx_ult_eq_mask_ult]

theorem parityFlag_mask (r : Word) (w : Width) : parityFlag (mask r w) = parityFlag r := by
  rw [parityFlag_eq _ w, parityFlag_eq r w, mask_toNat, Nat.mod_mod]

theorem parityFlag_eq_evenParity (r : Word) : parityFlag r = evenParity r.toNat := by
  rw [parityFlag_eq r .w32, show r.toNat % 2 ^ Width.w32.bits = r.toNat from Nat.mod_eq_of_lt r.isLt]

end Sys2Proof.Machine

namespace Sys2Proof.Proofs

open Sys2Proof Sys2Proof.Machine Sys2Proof.Safety

/-- Settles O42, from the sign-extended view as a number. -/
theorem signExtendedViewsKeepOrder : Obligations.SignExtendedViewsKeepOrder := fun w a b =>
  ⟨sign_sx a w, sx_ult_eq_mask_ult a b w, sx_ule_eq_mask_ule a b w, sx_ult_eq_mask_ult b a w,
    sx_ule_eq_mask_ule b a w⟩

/-- Settles O43, flag by flag; the examples are evaluated. -/
theorem commonFlagsOfRawResult : Obligations.CommonFlagsOfRawResult := by
  refine ⟨fun w r => ⟨parityFlag_eq_evenParity r, parityFlag_mask r w, ?_, rfl, sign_sx r w⟩, ?_⟩
  · rw [zeroFlag_eq, Bool.beq_eq_decide_eq]
  · decide

end Sys2Proof.Proofs

/-! ### Carry and borrow, signed overflow (40_units.md R103, R104) -/

namespace Sys2Proof.Machine

open Sys2Proof Sys2Proof.Safety

/-- The next state of add (`c` false) and adc (41_add_sub.md R106, R107). -/
def afterAddition (w : Width) (src dest : Port) (c : Bool) (s : State) : State :=
  let a := operand src
  let d := operand dest
  let r := carryPropagator a d c
  s.afterResult (addFlags r a d w (carryAdc r a w c)) (resultMasked r w)

/-- CF of sub (`c` false) and of sbb (40_units.md R92, R93). -/
def borrowFlag (r d : Word) (w : Width) (c : Bool) : Bool :=
  if c then carrySbb r d w else carrySub r d w

/-- The next state of sub (`c` false) and sbb (41_add_sub.md R108, R109). -/
def afterSubtraction (w : Width) (src dest : Port) (c : Bool) (s : State) : State :=
  let a := operand src
  let d := operand dest
  let r := carryPropagator d (~~~a) (!c)
  s.afterResult (subFlags r a d w (borrowFlag r d w c)) (resultMasked r w)

theorem exec_add_field (w : Width) (src dest : Port) (s : State) :
    exec (.add src dest w.field) s = .next (afterAddition w src dest false s) :=
  withWidth_field w s _

theorem exec_sub_field (w : Width) (src dest : Port) (s : State) :
    exec (.sub src dest w.field) s = .next (afterSubtraction w src dest false s) :=
  withWidth_field w s _

theorem exec_adc_field (w : Width) (src dest : Port) {s : State} {c : Bool}
    (h : s.flags.cf = .ofBool c) :
    exec (.adc src dest w.field) s = .next (afterAddition w src dest c s) :=
  (withWidth_field w s _).trans (withCarry_of_bool h _)

theorem exec_sbb_field (w : Width) (src dest : Port) {s : State} {c : Bool}
    (h : s.flags.cf = .ofBool c) :
    exec (.sbb src dest w.field) s = .next (afterSubtraction w src dest c s) := by
  refine ((withWidth_field w s _).trans (withCarry_of_bool h _)).trans ?_
  cases c <;> rfl

theorem operand_toNat_mod (p : Port) (w : Width) :
    (operand p).toNat % 2 ^ w.bits = unsignedAt w p := by
  rw [← mask_toNat, mask_operand_toNat, unsignedAt]

/-- The adder on w-bit numbers (40_units.md R84). -/
theorem carryPropagator_toNat_mod (a b : Word) (c : Bool) (w : Width) :
    (carryPropagator a b c).toNat % 2 ^ w.bits =
      (a.toNat % 2 ^ w.bits + b.toNat % 2 ^ w.bits + c.toNat) % 2 ^ w.bits := by
  rw [carryPropagator_toNat, Nat.mod_mod_of_dvd _ (Nat.pow_dvd_pow 2 (Width.bits_le w))]
  simp only [Nat.add_mod, Nat.mod_mod]

/-- The complement on w-bit numbers. -/
theorem not_toNat_mod (v : Word) (w : Width) :
    (~~~v).toNat % 2 ^ w.bits = 2 ^ w.bits - 1 - v.toNat % 2 ^ w.bits := by
  rw [← BitVec.toNat_setWidth, BitVec.setWidth_not (Width.bits_le w), BitVec.toNat_not,
    BitVec.toNat_setWidth]

/-- The sum wraps below its first summand and the carry in exactly when it carries out. -/
theorem carryPropagator_lt_iff (a b : Word) (c : Bool) (w : Width) :
    (carryPropagator a b c).toNat % 2 ^ w.bits < a.toNat % 2 ^ w.bits + c.toNat ↔
      2 ^ w.bits ≤ a.toNat % 2 ^ w.bits + b.toNat % 2 ^ w.bits + c.toNat := by
  have hpos := Nat.two_pow_pos w.bits
  have ha := Nat.mod_lt a.toNat hpos
  have hb := Nat.mod_lt b.toNat hpos
  have hc := Bool.toNat_le c
  rw [carryPropagator_toNat_mod]
  obtain hlt | hge := Nat.lt_or_ge
    (a.toNat % 2 ^ w.bits + b.toNat % 2 ^ w.bits + c.toNat) (2 ^ w.bits)
  · rw [Nat.mod_eq_of_lt hlt]
    omega
  · rw [Nat.mod_eq_sub_mod hge, Nat.mod_eq_of_lt (by omega)]
    omega

theorem carryAdc_eq (r s : Word) (w : Width) (c : Bool) :
    carryAdc r s w c = decide (r.toNat % 2 ^ w.bits < s.toNat % 2 ^ w.bits + c.toNat) := by
  cases c with
  | false => exact sx_ult r s w
  | true => simp [carryAdc, sx_ule, Order.lt_add_one_iff, ← decide_not]

theorem borrowFlag_eq (r d : Word) (w : Width) (c : Bool) :
    borrowFlag r d w c = !decide (r.toNat % 2 ^ w.bits < d.toNat % 2 ^ w.bits + (!c).toNat) := by
  cases c with
  | false => simp [borrowFlag, carrySub, sx_ult, Order.lt_add_one_iff, ← decide_not]
  | true => simp [borrowFlag, carrySbb, sx_ule]

/-- The carry out of bit w−1 (40_units.md R103). -/
theorem afterAddition_cf (w : Width) (src dest : Port) (c : Bool) (s : State) :
    (afterAddition w src dest c s).flags.cf =
      .ofBool (decide (2 ^ w.bits ≤ unsignedAt w src + unsignedAt w dest + c.toNat)) := by
  refine congrArg Flag.ofBool ((carryAdc_eq _ _ w c).trans ?_)
  rw [decide_eq_decide, carryPropagator_lt_iff, operand_toNat_mod, operand_toNat_mod]

/-- The borrow out of bit w−1: the sum with the complement does not carry out (40_units.md R103). -/
theorem afterSubtraction_cf (w : Width) (src dest : Port) (c : Bool) (s : State) :
    (afterSubtraction w src dest c s).flags.cf =
      .ofBool (decide (unsignedAt w dest < unsignedAt w src + c.toNat)) := by
  refine congrArg Flag.ofBool ((borrowFlag_eq _ _ w c).trans ?_)
  have hlt := Nat.mod_lt (operand src).toNat (Nat.two_pow_pos w.bits)
  rw [← decide_not, decide_eq_decide, carryPropagator_lt_iff, not_toNat_mod,
    ← operand_toNat_mod src, ← operand_toNat_mod dest]
  cases c <;> simp only [Bool.not_false, Bool.not_true, Bool.toNat_false, Bool.toNat_true] <;> omega

/-- The low w bits of a word as a two's-complement number (40_units.md R104). -/
def signedLow (w : Width) (v : Word) : Int := (v.setWidth w.bits).toInt

theorem signedLow_operand (w : Width) (p : Port) : signedLow w (operand p) = signedAt w p :=
  congrArg BitVec.toInt (setWidth_operand p w)

theorem signedLow_eq_bmod (w : Width) (v : Word) : signedLow w v = (v.toNat : Int).bmod (2 ^ w.bits) :=
  BitVec.toInt_setWidth v

theorem sign_sx_eq_neg (v : Word) (w : Width) : sign (sx v w) = decide (signedLow w v < 0) := by
  rw [sign_sx, signedLow, ← BitVec.msb_eq_toInt, BitVec.msb_setWidth]
  simp [Width.bits_pos w]

/-- The adder on signed w-bit numbers (40_units.md R84). -/
theorem signedLow_carryPropagator (a b : Word) (c : Bool) (w : Width) :
    signedLow w (carryPropagator a b c) =
      (signedLow w a + signedLow w b + c.toNat).bmod (2 ^ w.bits) := by
  have hdvd : 2 ^ w.bits ∣ 2 ^ 32 := Nat.pow_dvd_pow 2 (Width.bits_le w)
  simp only [signedLow_eq_bmod, carryPropagator_toNat]
  rw [← Int.bmod_bmod_of_dvd hdvd, Int.natCast_emod, Int.emod_bmod, Int.bmod_bmod_of_dvd hdvd,
    Int.natCast_add, Int.natCast_add]
  exact Int.add_bmod_eq_add_bmod_right _ (Int.add_bmod _ _ _)

theorem two_pow_bits {R : Type} [CommSemiring R] (w : Width) :
    (2 : R) ^ w.bits = 2 * 2 ^ (w.bits - 1) :=
  (mul_pow_sub_one (Width.bits_pos w).ne' 2).symm

/-- The complement on signed w-bit numbers. -/
theorem signedLow_not (w : Width) (v : Word) : signedLow w (~~~v) = -signedLow w v - 1 := by
  have hpow := two_pow_bits (R := Nat) w
  have hlt := (v.setWidth w.bits).isLt
  rw [signedLow, signedLow, BitVec.setWidth_not (Width.bits_le w), BitVec.toInt_eq_toNat_cond,
    BitVec.toInt_eq_toNat_cond, BitVec.toNat_not]
  split <;> split <;> omega

/-- The add-overflow rule on a sum of the adder (40_units.md R91, R104). -/
theorem overflowAdd_carryPropagator (a b : Word) (c : Bool) (w : Width) :
    overflowAdd (carryPropagator a b c) a b w =
      outOfSignedRange w (signedLow w a + signedLow w b + c.toNat) := by
  have hpow := two_pow_bits (R := Int) w
  have halow : -2 ^ (w.bits - 1) ≤ signedLow w a := BitVec.le_toInt _
  have hblow : -2 ^ (w.bits - 1) ≤ signedLow w b := BitVec.le_toInt _
  have hahigh : signedLow w a < 2 ^ (w.bits - 1) := BitVec.toInt_lt
  have hbhigh : signedLow w b < 2 ^ (w.bits - 1) := BitVec.toInt_lt
  have hc := Bool.toNat_le c
  have hneg := Int.bmod_neg_iff (x := signedLow w a + signedLow w b + c.toNat) (m := 2 ^ w.bits)
    (by push_cast; omega) (by push_cast; omega)
  rw [← signedLow_carryPropagator] at hneg
  rw [overflowAdd, outOfSignedRange, Bool.eq_iff_iff]
  simp only [sign_sx_eq_neg, Bool.and_eq_true, beq_iff_eq, bne_iff_ne, ne_eq, decide_eq_true_eq,
    decide_eq_decide, hneg]
  push_cast
  omega

theorem afterAddition_of (w : Width) (src dest : Port) (c : Bool) (s : State) :
    (afterAddition w src dest c s).flags.of =
      .ofBool (outOfSignedRange w (signedAt w src + signedAt w dest + c.toNat)) := by
  rw [← signedLow_operand, ← signedLow_operand]
  exact congrArg Flag.ofBool (overflowAdd_carryPropagator _ _ c w)

theorem carryPropagator_comm (a b : Word) (c : Bool) :
    carryPropagator a b c = carryPropagator b a c := by
  rw [carryPropagator, carryPropagator, BitVec.add_comm a b]

/-- D' + (−S' − 1) + (1 − c) is D' − S' − c (40_units.md R94, R104). -/
theorem afterSubtraction_of (w : Width) (src dest : Port) (c : Bool) (s : State) :
    (afterSubtraction w src dest c s).flags.of =
      .ofBool (outOfSignedRange w (signedAt w dest - signedAt w src - c.toNat)) := by
  have hsum : signedAt w dest - signedAt w src - c.toNat =
      signedLow w (~~~operand src) + signedLow w (operand dest) + (!c).toNat := by
    rw [signedLow_not, signedLow_operand, signedLow_operand]
    cases c <;> simp <;> omega
  rw [hsum, ← overflowAdd_carryPropagator, carryPropagator_comm]
  rfl

end Sys2Proof.Machine

namespace Sys2Proof.Proofs

open Sys2Proof Sys2Proof.Machine Sys2Proof.Safety

/-- Settles O28, from the carry of the addition and the borrow of the subtraction. -/
theorem carryIsCarryOrBorrowOut : Obligations.CarryIsCarryOrBorrowOut := fun w src dest s =>
  ⟨⟨_, exec_add_field w src dest s, afterAddition_cf w src dest false s⟩,
    ⟨_, exec_sub_field w src dest s, afterSubtraction_cf w src dest false s⟩,
    fun c hc =>
      ⟨⟨_, exec_adc_field w src dest hc, afterAddition_cf w src dest c s⟩,
        ⟨_, exec_sbb_field w src dest hc, afterSubtraction_cf w src dest c s⟩⟩⟩

/-- Settles O29, from the overflow of the addition and of the subtraction. -/
theorem overflowIsSignedOverflow : Obligations.OverflowIsSignedOverflow := fun w src dest s =>
  ⟨⟨_, exec_add_field w src dest s, by simpa using afterAddition_of w src dest false s⟩,
    ⟨_, exec_sub_field w src dest s, by simpa using afterSubtraction_of w src dest false s⟩,
    fun c hc =>
      ⟨⟨_, exec_adc_field w src dest hc, afterAddition_of w src dest c s⟩,
        ⟨_, exec_sbb_field w src dest hc, afterSubtraction_of w src dest c s⟩⟩⟩

end Sys2Proof.Proofs

/-! ### The product as a number (42_mul_div.md R111, 40_units.md R95) -/

namespace Sys2Proof.Machine

open Sys2Proof Sys2Proof.Safety

/-- The product above bit w−1 is 0 exactly when the product is below 2^w (40_units.md R95). -/
theorem productHigh_eq (p : Port) (w : Width) : productHigh p w = decide (2 ^ w.bits ≤ p.toNat) := by
  have hzero : p >>> w.bits = 0#64 ↔ p.toNat < 2 ^ w.bits := by
    rw [← BitVec.toNat_inj, BitVec.toNat_ushiftRight, Nat.shiftRight_eq_div_pow, BitVec.toNat_ofNat,
      Nat.zero_mod, Nat.div_eq_zero_iff_lt (Nat.two_pow_pos _)]
  rw [productHigh, Bool.eq_iff_iff, bne_iff_ne, ne_eq, hzero, decide_eq_true_eq, Nat.not_lt]

end Sys2Proof.Machine

namespace Sys2Proof.Proofs

open Sys2Proof Sys2Proof.Machine Sys2Proof.Safety

/-- Settles O32, from the product the datapath holds exactly. -/
theorem mulReturnsExactProduct : Obligations.MulReturnsExactProduct := by
  intro w src dest s p high
  obtain ⟨q, hq⟩ : ∃ q, unsignedOperand (operand src) w * unsignedOperand (operand dest) w = q :=
    ⟨_, rfl⟩
  have hp : q.toNat = p := hq ▸ unsignedProduct_toNat src dest w
  refine ⟨hp ▸ q.isLt, ?_⟩
  have hresult : BitVec.ofNat 64 p = q := by rw [← hp, BitVec.ofNat_toNat, BitVec.setWidth_eq]
  have hhigh : high = .ofBool (productHigh q w) := by rw [productHigh_eq, hp]
  rw [exec_mul_field, hq, hresult, hhigh]
  rfl

end Sys2Proof.Proofs

/-! ### The shifts (44_shift.md R123 to R127, 40_units.md R98 to R102, R105) -/

namespace Sys2Proof.Machine

open Sys2Proof Sys2Proof.Safety

section ShiftBy

variable {src : Port} (dest : Port) (w : Width) (raw : Nat → Word) (carry : Nat → Bool) (s : State)

theorem shiftBy_of_count_zero (h : src.toNat % 32 = 0) :
    shiftBy src dest w raw carry s = .next (s.afterResult s.flags (resultMasked (operand dest) w)) :=
  if_pos ((shiftCount_eq src).trans h)

theorem shiftBy_of_count_ne_zero (h : src.toNat % 32 ≠ 0) :
    shiftBy src dest w raw carry s =
      let n := src.toNat % 32
      .next (s.afterResult (shiftFlags (raw n) w (carry n)) (resultMasked (raw n) w)) := by
  rw [← shiftCount_eq] at h ⊢
  exact if_neg h

end ShiftBy

/-- The CF a shift by a non-zero count leaves (40_units.md R98 to R100). -/
theorem shiftBy_carry {src dest : Port} {w : Width} {carry : Nat → Bool} {b : Bool}
    (h : 1 ≤ src.toNat % 32) (raw : Nat → Word) (s : State) (hb : carry (src.toNat % 32) = b) :
    ∃ t, shiftBy src dest w raw carry s = .next t ∧ t.flags.cf = .ofBool b :=
  ⟨_, shiftBy_of_count_ne_zero dest w raw carry s (by omega), congrArg Flag.ofBool hb⟩

section ShiftMeanings

variable (w : Width) (src dest : Port) (s : State)

theorem shiftLeft_eq :
    shiftLeft src dest w s =
      shiftBy src dest w (operand dest <<< ·)
        (fun n => (operand dest <<< (n - 1)).getLsbD (w.bits - 1)) s := rfl

theorem exec_shl_field : exec (.shl src dest w.field) s = shiftLeft src dest w s :=
  withWidth_field w s _

theorem exec_sal_field : exec (.sal src dest w.field) s = shiftLeft src dest w s :=
  withWidth_field w s _

theorem exec_shr_field :
    exec (.shr src dest w.field) s =
      shiftBy src dest w (mask (operand dest) w >>> ·)
        (fun n => (mask (operand dest) w >>> (n - 1)).getLsbD 0) s :=
  withWidth_field w s _

theorem exec_sar_field :
    exec (.sar src dest w.field) s =
      shiftBy src dest w (sx (operand dest) w).sshiftRight
        (fun n => ((sx (operand dest) w).sshiftRight (n - 1)).getLsbD 0) s :=
  withWidth_field w s _

end ShiftMeanings

theorem resultMasked_operand (p : Port) (w : Width) :
    resultMasked (operand p) w = BitVec.ofNat 64 (unsignedAt w p) := by
  rw [← operand_toNat_mod, ← resultMasked_toNat, BitVec.ofNat_toNat, BitVec.setWidth_eq]

/-- A shift is `shiftBy` at a legal width, whatever its raw result and carry. -/
theorem IsShift.exec_field {i : Instr} {src dest : Port} {w : Width} (h : IsShift src dest w.field i)
    (s : State) : ∃ raw carry, exec i s = shiftBy src dest w raw carry s := by
  cases h with
  | shl => exact ⟨_, _, (exec_shl_field w src dest s).trans (shiftLeft_eq w src dest s)⟩
  | shr => exact ⟨_, _, exec_shr_field w src dest s⟩
  | sar => exact ⟨_, _, exec_sar_field w src dest s⟩
  | sal => exact ⟨_, _, (exec_sal_field w src dest s).trans (shiftLeft_eq w src dest s)⟩

theorem IsShift.exec_of_count_zero {i : Instr} {src dest : Port} {w : Width}
    (h : IsShift src dest w.field i) (hn : src.toNat % 32 = 0) (s : State) :
    exec i s = .next (succeeded s s.flags (BitVec.ofNat 64 (unsignedAt w dest))) := by
  obtain ⟨raw, carry, he⟩ := h.exec_field s
  rw [he, shiftBy_of_count_zero dest w raw carry s hn, resultMasked_operand]
  rfl

theorem operand_getLsbD (p : Port) {i : Nat} (h : i < 32) : (operand p).getLsbD i = p.getLsbD i := by
  simp [operand, h]

/-- The last bit a left shift by n moves out of bit w−1 (40_units.md R98, R105). -/
theorem shiftLeft_carry (dest : Port) (w : Width) {n : Nat} (hn : 1 ≤ n) :
    (operand dest <<< (n - 1)).getLsbD (w.bits - 1) =
      if n ≤ w.bits then dest.getLsbD (w.bits - n) else false := by
  have hp := Width.bits_pos w
  have hle := Width.bits_le w
  rw [BitVec.getLsbD_shiftLeft]
  split
  · next h =>
    rw [show w.bits - 1 - (n - 1) = w.bits - n by omega, operand_getLsbD dest (by omega)]
    simp [show w.bits - 1 < 32 by omega, show ¬ w.bits - 1 < n - 1 by omega]
  · next h => simp [show w.bits - 1 < n - 1 by omega]

/-- The last bit a logical right shift by n moves out of bit 0 (40_units.md R99, R105). -/
theorem shiftRight_carry (dest : Port) (w : Width) {n : Nat} (hn : 1 ≤ n) (hn' : n < 32) :
    (mask (operand dest) w >>> (n - 1)).getLsbD 0 =
      if n ≤ w.bits then dest.getLsbD (n - 1) else false := by
  rw [BitVec.getLsbD_ushiftRight, Nat.add_zero, mask_getLsbD, operand_getLsbD dest (by omega)]
  split
  · next h => simp [show n - 1 < w.bits by omega]
  · next h => simp [show ¬ n - 1 < w.bits by omega]

/-- The last bit an arithmetic right shift by n moves out of bit 0 (40_units.md R100, R105). -/
theorem sshiftRight_carry (dest : Port) (w : Width) {n : Nat} (hn : 1 ≤ n) (hn' : n < 32) :
    ((sx (operand dest) w).sshiftRight (n - 1)).getLsbD 0 =
      if n ≤ w.bits - 1 then dest.getLsbD (n - 1) else dest.getLsbD (w.bits - 1) := by
  have hle := Width.bits_le w
  have hbit : ((sx (operand dest) w).sshiftRight (n - 1)).getLsbD 0 =
      (sx (operand dest) w).getLsbD (n - 1) := by
    rw [BitVec.getLsbD_sshiftRight, Nat.add_zero, if_pos (by omega)]
    rfl
  rw [hbit, sx_getLsbD _ w (by omega), operand_getLsbD dest (by omega)]
  split
  · next h => rw [show min (n - 1) (w.bits - 1) = n - 1 by omega]
  · next h => rw [show min (n - 1) (w.bits - 1) = w.bits - 1 by omega]

end Sys2Proof.Machine

namespace Sys2Proof.Proofs

open Sys2Proof Sys2Proof.Machine Sys2Proof.Safety

/-- Settles O40, once for the four shifts. -/
theorem shiftByZeroOnlyMasks : Obligations.ShiftByZeroOnlyMasks := fun _ _ _ s hn =>
  ⟨IsShift.shl.exec_of_count_zero hn s, IsShift.shr.exec_of_count_zero hn s,
    IsShift.sar.exec_of_count_zero hn s, IsShift.sal.exec_of_count_zero hn s⟩

/-- Settles O38, from the last bit each shift moves out. -/
theorem shiftCarryIsLastBitOut : Obligations.ShiftCarryIsLastBitOut := by
  intro w src dest s n hn
  have hlt : n < 32 := Nat.mod_lt _ (by decide)
  rw [exec_shl_field, exec_sal_field, exec_shr_field, exec_sar_field, shiftLeft_eq]
  exact ⟨shiftBy_carry hn _ s (shiftLeft_carry dest w hn),
    shiftBy_carry hn _ s (shiftLeft_carry dest w hn),
    shiftBy_carry hn _ s (shiftRight_carry dest w hn hlt),
    shiftBy_carry hn _ s (sshiftRight_carry dest w hn hlt)⟩

end Sys2Proof.Proofs

/-! ### Results, round trip and chaining of add, adc, sub, sbb (41_add_sub.md R106 to R110) -/

namespace Sys2Proof.Machine

open Sys2Proof Sys2Proof.Safety

/-- The result of add (`c` false) and adc on w-bit operands (41_add_sub.md R106, R107). -/
def sumAt (w : Width) (src dest : Port) (c : Bool) : Port :=
  resultMasked (carryPropagator (operand src) (operand dest) c) w

/-- The result of sub (`c` false) and sbb on w-bit operands (41_add_sub.md R108, R109). -/
def differenceAt (w : Width) (src dest : Port) (c : Bool) : Port :=
  resultMasked (carryPropagator (operand dest) (~~~operand src) (!c)) w

/-- `Nat.mod_mul` on integers. -/
theorem int_emod_mul {a : Int} (ha : 0 ≤ a) (b x : Int) : x % (a * b) = x % a + a * (x / a % b) := by
  rw [Int.emod_def, Int.emod_def, Int.emod_def, Int.ediv_mul_of_nonneg ha]
  ring

section Results

variable (w : Width) (src dest src' dest' : Port) (c : Bool) (s : State)

theorem unsignedAt_lt : unsignedAt w src < 2 ^ w.bits := Nat.mod_lt _ (Nat.two_pow_pos _)

theorem sumAt_toNat :
    (sumAt w src dest c).toNat = (unsignedAt w src + unsignedAt w dest + c.toNat) % 2 ^ w.bits := by
  rw [sumAt, resultMasked_toNat, carryPropagator_toNat_mod, operand_toNat_mod, operand_toNat_mod]

/-- D + (2^w − 1 − S) + (1 − c) is D − S − c and one 2^w more. -/
theorem differenceAt_toNat :
    ((differenceAt w src dest c).toNat : Int) =
      ((unsignedAt w dest : Int) - unsignedAt w src - c.toNat) % 2 ^ w.bits := by
  have hlt := unsignedAt_lt w src
  have hsum : ((unsignedAt w dest + (2 ^ w.bits - 1 - unsignedAt w src) + (!c).toNat : Nat) : Int) =
      (unsignedAt w dest : Int) - unsignedAt w src - c.toNat + (2 ^ w.bits : Nat) := by
    cases c <;> simp only [Bool.not_false, Bool.not_true, Bool.toNat_false, Bool.toNat_true] <;> omega
  rw [differenceAt, resultMasked_toNat, carryPropagator_toNat_mod, not_toNat_mod, operand_toNat_mod,
    operand_toNat_mod, Int.natCast_emod, hsum, Int.add_emod_right]
  push_cast
  rfl

theorem sumAt_eq_ofNat :
    sumAt w src dest c =
      BitVec.ofNat 64 ((unsignedAt w src + unsignedAt w dest + c.toNat) % 2 ^ w.bits) := by
  rw [← sumAt_toNat, BitVec.ofNat_toNat, BitVec.setWidth_eq]

theorem differenceAt_eq_ofInt :
    differenceAt w src dest c =
      BitVec.ofInt 64 (((unsignedAt w dest : Int) - unsignedAt w src - c.toNat) % 2 ^ w.bits) := by
  rw [← differenceAt_toNat, BitVec.ofInt_natCast, BitVec.ofNat_toNat, BitVec.setWidth_eq]

theorem afterAddition_eq_succeeded :
    afterAddition w src dest c s = succeeded s (afterAddition w src dest c s).flags
      (BitVec.ofNat 64 ((unsignedAt w src + unsignedAt w dest + c.toNat) % 2 ^ w.bits)) := by
  rw [← sumAt_eq_ofNat]
  rfl

theorem afterSubtraction_eq_succeeded :
    afterSubtraction w src dest c s = succeeded s (afterSubtraction w src dest c s).flags
      (BitVec.ofInt 64 (((unsignedAt w dest : Int) - unsignedAt w src - c.toNat) % 2 ^ w.bits)) := by
  rw [← differenceAt_eq_ofInt]
  rfl

/-- Subtraction undoes addition modulo 2^w (41_add_sub.md R110). -/
theorem differenceAt_sumAt :
    differenceAt w src (sumAt w src dest c) c = BitVec.ofNat 64 (unsignedAt w dest) := by
  have hsum : (unsignedAt w (sumAt w src dest c) : Int) =
      ((unsignedAt w src : Int) + unsignedAt w dest + c.toNat) % 2 ^ w.bits := by
    rw [unsignedAt, sumAt_toNat, Nat.mod_mod]
    push_cast
    rfl
  have hlt : (unsignedAt w dest : Int) < 2 ^ w.bits := by exact_mod_cast unsignedAt_lt w dest
  rw [differenceAt_eq_ofInt, hsum, sub_sub, Int.emod_sub_emod,
    show (unsignedAt w src : Int) + unsignedAt w dest + c.toNat - (unsignedAt w src + c.toNat) =
      unsignedAt w dest by ring,
    Int.emod_eq_of_lt (Int.natCast_nonneg _) hlt, BitVec.ofInt_natCast]

/-- The carry out of bit w−1 is the sum's quotient by 2^w. -/
theorem sum_div_two_pow :
    (unsignedAt w src + unsignedAt w dest + c.toNat) / 2 ^ w.bits =
      (decide (2 ^ w.bits ≤ unsignedAt w src + unsignedAt w dest + c.toNat)).toNat := by
  have hsrc := unsignedAt_lt w src
  have hdest := unsignedAt_lt w dest
  have hc := Bool.toNat_le c
  obtain hlt | hge := Nat.lt_or_ge (unsignedAt w src + unsignedAt w dest + c.toNat) (2 ^ w.bits)
  · rw [decide_eq_false hlt.not_ge, Bool.toNat_false, Nat.div_eq_of_lt hlt]
  · rw [decide_eq_true hge, Bool.toNat_true]
    exact Nat.div_eq_of_lt_le (by omega) (by omega)

/-- The borrow out of bit w−1 is the difference's quotient by 2^w, up to its sign. -/
theorem difference_div_two_pow :
    ((unsignedAt w dest : Int) - unsignedAt w src - c.toNat) / 2 ^ w.bits =
      -(decide (unsignedAt w dest < unsignedAt w src + c.toNat)).toNat := by
  have hsrc : (unsignedAt w src : Int) < 2 ^ w.bits := by exact_mod_cast unsignedAt_lt w src
  have hdest : (unsignedAt w dest : Int) < 2 ^ w.bits := by exact_mod_cast unsignedAt_lt w dest
  have hc := Bool.toNat_le c
  obtain hlt | hge := Nat.lt_or_ge (unsignedAt w dest) (unsignedAt w src + c.toNat)
  · rw [decide_eq_true hlt, Bool.toNat_true]
    exact Int.ediv_eq_neg_one_of_neg_of_le (by omega) (by omega)
  · rw [decide_eq_false hge.not_gt, Bool.toNat_false]
    exact Int.ediv_eq_zero_of_lt (by omega) (by omega)

/-- Two sums chained by the carry are the sum of 2w bits (41_add_sub.md R110). -/
theorem sumAt_chained :
    (sumAt w src dest c).toNat + 2 ^ w.bits * (sumAt w src' dest'
        (decide (2 ^ w.bits ≤ unsignedAt w src + unsignedAt w dest + c.toNat))).toNat =
      ((unsignedAt w src + 2 ^ w.bits * unsignedAt w src') +
        (unsignedAt w dest + 2 ^ w.bits * unsignedAt w dest') + c.toNat) % 2 ^ (2 * w.bits) := by
  have hsplit : (unsignedAt w src + 2 ^ w.bits * unsignedAt w src') +
      (unsignedAt w dest + 2 ^ w.bits * unsignedAt w dest') + c.toNat =
      (unsignedAt w src + unsignedAt w dest + c.toNat) +
        2 ^ w.bits * (unsignedAt w src' + unsignedAt w dest') := by ring
  rw [hsplit, two_mul, pow_add, Nat.mod_mul, Nat.add_mul_mod_self_left,
    Nat.add_mul_div_left _ _ (Nat.two_pow_pos _), sum_div_two_pow, sumAt_toNat, sumAt_toNat,
    Nat.add_comm (Bool.toNat _)]

/-- Two differences chained by the borrow are the difference of 2w bits (41_add_sub.md R110). -/
theorem differenceAt_chained :
    ((differenceAt w src dest c).toNat : Int) + 2 ^ w.bits * (differenceAt w src' dest'
        (decide (unsignedAt w dest < unsignedAt w src + c.toNat))).toNat =
      (((unsignedAt w dest : Int) + 2 ^ w.bits * unsignedAt w dest') -
        (unsignedAt w src + 2 ^ w.bits * unsignedAt w src') - c.toNat) % 2 ^ (2 * w.bits) := by
  have hsplit : ((unsignedAt w dest : Int) + 2 ^ w.bits * unsignedAt w dest') -
      (unsignedAt w src + 2 ^ w.bits * unsignedAt w src') - c.toNat =
      ((unsignedAt w dest : Int) - unsignedAt w src - c.toNat) +
        2 ^ w.bits * ((unsignedAt w dest' : Int) - unsignedAt w src') := by ring
  have hpos : (0 : Int) < 2 ^ w.bits := pow_pos two_pos _
  rw [hsplit, two_mul, pow_add, int_emod_mul hpos.le, Int.add_mul_emod_self_left,
    Int.add_mul_ediv_left _ _ hpos.ne', difference_div_two_pow, differenceAt_toNat,
    differenceAt_toNat, neg_add_eq_sub]

end Results

/-- With CF = 0 adc has add's outcome, at every WIDTH field (41_add_sub.md R107). -/
theorem exec_adc_of_cf_zero {s : State} (h : s.flags.cf = .zero) (src dest : Port)
    (width : BitVec 6) : exec (.adc src dest width) s = exec (.add src dest width) s :=
  congrArg (withWidth width s) (funext fun _ => withCarry_of_bool (c := false) h _)

/-- With CF = 0 sbb has sub's outcome, at every WIDTH field (41_add_sub.md R109). -/
theorem exec_sbb_of_cf_zero {s : State} (h : s.flags.cf = .zero) (src dest : Port)
    (width : BitVec 6) : exec (.sbb src dest width) s = exec (.sub src dest width) s :=
  congrArg (withWidth width s) (funext fun _ => withCarry_of_bool (c := false) h _)

end Sys2Proof.Machine

namespace Sys2Proof.Proofs

open Sys2Proof Sys2Proof.Machine Sys2Proof.Safety

/-- Settles O31, from the check of the incoming carry. -/
theorem withoutCarryAdcIsAddAndSbbIsSub : Obligations.WithoutCarryAdcIsAddAndSbbIsSub :=
  fun src dest width _ h => ⟨exec_adc_of_cf_zero h src dest width, exec_sbb_of_cf_zero h src dest width⟩

/-- Settles O30, from the results as numbers and the carry or borrow that CF hands on. -/
theorem additionFamilyLaws : Obligations.AdditionFamilyLaws := by
  refine ⟨fun w src dest s => ⟨?add, ?sub, fun c hc => ⟨?adc, ?sbb⟩⟩,
    fun w src dest sum s t hadd hsum => ?roundTrip,
    fun w src dest src' dest' s t low => ⟨fun hadd hlow => ?addChain, fun hsub hlow => ?subChain⟩⟩
  case add =>
    exact ⟨_, (exec_add_field w src dest s).trans
      (congrArg _ (afterAddition_eq_succeeded w src dest false s))⟩
  case sub =>
    have h := afterSubtraction_eq_succeeded w src dest false s
    rw [Bool.toNat_false, Nat.cast_zero, sub_zero] at h
    exact ⟨_, (exec_sub_field w src dest s).trans (congrArg _ h)⟩
  case adc =>
    exact ⟨_, (exec_adc_field w src dest hc).trans
      (congrArg _ (afterAddition_eq_succeeded w src dest c s))⟩
  case sbb =>
    exact ⟨_, (exec_sbb_field w src dest hc).trans
      (congrArg _ (afterSubtraction_eq_succeeded w src dest c s))⟩
  case roundTrip =>
    cases (exec_add_field w src dest s).symm.trans hadd
    cases hsum
    exact ⟨_, exec_sub_field w src _ _, congrArg Response.ok (differenceAt_sumAt w src dest false)⟩
  case addChain =>
    cases (exec_add_field w src dest s).symm.trans hadd
    cases hlow
    exact ⟨_, _, exec_adc_field w src' dest' (afterAddition_cf w src dest false s), rfl,
      sumAt_chained w src dest src' dest' false⟩
  case subChain =>
    cases (exec_sub_field w src dest s).symm.trans hsub
    cases hlow
    have h := differenceAt_chained w src dest src' dest' false
    rw [Bool.toNat_false, Nat.cast_zero, sub_zero] at h
    refine ⟨_, _, exec_sbb_field w src' dest' (afterSubtraction_cf w src dest false s), rfl, ?_⟩
    exact_mod_cast h

end Sys2Proof.Proofs

/-! ### The signed product and the divisions (42_mul_div.md R112 to R118) -/

namespace Sys2Proof.Machine

open Sys2Proof Sys2Proof.Safety

/-- A number cut to 32 bits and then to w bits keeps its low w bits. -/
theorem resultMasked_ofNat (n : Nat) (w : Width) :
    resultMasked (BitVec.ofNat 32 n) w = BitVec.ofNat 64 (n % 2 ^ w.bits) := by
  have hmod : (resultMasked (BitVec.ofNat 32 n) w).toNat = n % 2 ^ w.bits := by
    rw [resultMasked_toNat, BitVec.toNat_ofNat,
      Nat.mod_mod_of_dvd _ (Nat.pow_dvd_pow 2 (Width.bits_le w))]
  rw [← hmod, BitVec.ofNat_toNat, BitVec.setWidth_eq]

theorem resultHost_ofNat (n : Nat) :
    resultHost (BitVec.ofNat 32 n) = BitVec.ofNat 64 (n % 2 ^ 32) := by
  rw [resultHost, ← BitVec.ofNat_toNat, BitVec.toNat_ofNat]

/-- A signed number keeps its residue modulo 2^32. -/
theorem resultHost_ofInt (x : Int) :
    resultHost (BitVec.ofInt 32 x) = BitVec.ofInt 64 (x % 2 ^ 32) := by
  have hmod : ((BitVec.ofInt 32 x).toNat : Int) = x % 2 ^ 32 := by
    rw [BitVec.toNat_ofInt]
    omega
  rw [← hmod, BitVec.ofInt_natCast, BitVec.ofNat_toNat, resultHost]

/-! What the divisions answer where they raise no fault (R113 to R116). -/

section Divisions

variable {src dest : Port} (s : State) (hsrc : src ≠ 0#64)

include hsrc

theorem exec_div_of_ne (w : Width) :
    exec (.div src dest w.field) s =
      .next (succeeded s s.flags (BitVec.ofNat 64 (dest.toNat / src.toNat % 2 ^ w.bits))) := by
  rw [← resultMasked_ofNat]
  exact (withWidth_field w s _).trans (withDivisor_ne hsrc s _)

theorem exec_mod_of_ne (width : BitVec 6) :
    exec (.mod src dest width) s =
      .next (succeeded s s.flags (BitVec.ofNat 64 (dest.toNat % src.toNat % 2 ^ 32))) := by
  rw [← resultHost_ofNat]
  exact withDivisor_ne hsrc s _

variable (hpair : ¬ OverflowPair src dest)

include hpair

theorem exec_idiv_of_ne (w : Width) :
    exec (.idiv src dest w.field) s =
      .next (succeeded s s.flags (BitVec.ofInt 64 (dest.toInt.tdiv src.toInt % 2 ^ 32))) := by
  rw [exec_idiv_field, withDivisor_ne hsrc, withSignedQuotient_ne hpair, resultHost_ofInt]
  rfl

theorem exec_imod_of_ne (width : BitVec 6) :
    exec (.imod src dest width) s =
      .next (succeeded s s.flags (BitVec.ofInt 64 (dest.toInt.tmod src.toInt % 2 ^ 32))) := by
  rw [← resultHost_ofInt]
  exact (withDivisor_ne hsrc s _).trans (withSignedQuotient_ne hpair s _)

end Divisions

/-- A truncating remainder is smaller than the divisor (R117). -/
theorem natAbs_tmod_lt (a : Int) {b : Int} (hb : b ≠ 0) : (a.tmod b).natAbs < b.natAbs := by
  rw [Int.natAbs_tmod]
  exact Nat.mod_lt _ (Int.natAbs_pos.mpr hb)

/-- A truncating remainder is 0 or has the sign of the dividend (R117). -/
theorem tmod_eq_zero_or_sign (a b : Int) : a.tmod b = 0 ∨ (a.tmod b).sign = a.sign := by
  rw [Int.sign_tmod]
  by_cases hdvd : b ∣ a
  · exact .inl (Int.tmod_eq_zero_of_dvd hdvd)
  · exact .inr (if_neg hdvd)

/-! Which flags the family writes (R118). -/

/-- A WIDTH field is illegal or the field of a width. -/
theorem legalWidth_cases (width : BitVec 6) :
    legalWidth width = false ∨ ∃ w : Width, width = w.field := by
  rw [← ofField_isSome]
  cases h : Width.ofField width with
  | none => exact .inl rfl
  | some w => exact .inr ⟨w, field_of_ofField h⟩

/-- mul faults on its WIDTH or writes CF and OF from the product. -/
theorem exec_mul_next_cases {src dest : Port} {width : BitVec 6} {s t : State}
    (h : exec (.mul src dest width) s = .next t) :
    t = s.afterFault .invalidWidth ∨ ∃ p w, t = s.afterResult (mulFlags s.flags p w) p := by
  obtain hwidth | ⟨w, rfl⟩ := legalWidth_cases width
  · cases (withWidth_illegal hwidth s _).symm.trans h
    exact .inl rfl
  · cases (exec_mul_field w src dest s).symm.trans h
    exact .inr ⟨_, w, rfl⟩

/-- The outcome leaves every flag as it is in `s`. -/
def KeepsFlags (s : State) (o : Host.Outcome State Fault Refusal) : Prop :=
  ∀ t, o = .next t → t.flags = s.flags

section KeepsFlags

variable {s : State}

theorem keepsFlags_complete (result : Port) : KeepsFlags s (complete s.flags result s) := by
  rintro _ ⟨⟩
  rfl

theorem keepsFlags_raiseFault (f : Fault) : KeepsFlags s (raiseFault f s) := by
  rintro _ ⟨⟩
  rfl

theorem keepsFlags_withWidth (width : BitVec 6) {body : Width → Host.Outcome State Fault Refusal}
    (h : ∀ w, KeepsFlags s (body w)) : KeepsFlags s (withWidth width s body) := by
  obtain hwidth | ⟨w, rfl⟩ := legalWidth_cases width
  · rw [withWidth_illegal hwidth]
    exact keepsFlags_raiseFault _
  · rw [withWidth_field]
    exact h w

/-- The checks of the divisor and of the overflow pair are of this form. -/
theorem keepsFlags_check {c : Prop} [Decidable c] (f : Fault)
    {body : Host.Outcome State Fault Refusal} (h : KeepsFlags s body) :
    KeepsFlags s (if c then raiseFault f s else body) := by
  split
  · exact keepsFlags_raiseFault f
  · exact h

end KeepsFlags

end Sys2Proof.Machine

namespace Sys2Proof.Proofs

open Sys2Proof Sys2Proof.Machine Sys2Proof.Safety

/-- Settles O33, from the signed product the datapath holds exactly. -/
theorem imulReturnsExactSignedProduct : Obligations.ImulReturnsExactSignedProduct :=
  fun w src dest s => ⟨_, signedProduct_toInt src dest w, exec_imul_field w src dest s⟩

/-- Settles O35, with the quotient and the remainder of each division before they are cut. -/
theorem divisionLaws : Obligations.DivisionLaws := by
  refine ⟨fun w width src dest s hsrc => ?unsigned, fun w width src dest s hsrc hpair => ?signed⟩
  case unsigned =>
    have hpos : 0 < src.toNat := Nat.pos_of_ne_zero (BitVec.toNat_ne_iff_ne.mpr hsrc)
    exact ⟨dest.toNat / src.toNat, dest.toNat % src.toNat, (Nat.div_add_mod' _ _).symm,
      Nat.mod_lt _ hpos, exec_div_of_ne s hsrc w, exec_mod_of_ne s hsrc width⟩
  case signed =>
    have hne : src.toInt ≠ 0 := BitVec.toInt_ne.mpr hsrc
    exact ⟨dest.toInt.tdiv src.toInt, dest.toInt.tmod src.toInt, (Int.tdiv_mul_add_tmod _ _).symm,
      natAbs_tmod_lt _ hne, tmod_eq_zero_or_sign _ _, exec_idiv_of_ne s hsrc hpair w,
      exec_imod_of_ne s hsrc hpair width⟩

/-- Settles O36, from the two ways mul ends and, for the other five, from each check of the operation and
its result keeping the flags. -/
theorem mulDivFlagEffects : Obligations.MulDivFlagEffects := by
  refine fun src dest width s t => ⟨fun h => ?_, ?_⟩
  · obtain rfl | ⟨p, w, rfl⟩ := exec_mul_next_cases h
    · exact ⟨rfl, rfl, rfl, fun ⟨_, hok⟩ => nomatch hok⟩
    · exact ⟨rfl, rfl, rfl, fun _ => ⟨rfl, Flag.ofBool_ne_undef _⟩⟩
  · rintro (himul | hdiv | hidiv | hmod | himod)
    · exact keepsFlags_withWidth _ (fun _ => keepsFlags_complete _) t himul
    · exact keepsFlags_withWidth _ (fun _ => keepsFlags_check _ (keepsFlags_complete _)) t hdiv
    · exact keepsFlags_withWidth _
        (fun _ => keepsFlags_check _ (keepsFlags_check _ (keepsFlags_complete _))) t hidiv
    · exact keepsFlags_check _ (keepsFlags_complete _) t hmod
    · exact keepsFlags_check _ (keepsFlags_check _ (keepsFlags_complete _)) t himod

end Sys2Proof.Proofs

/-! ### The logic operations (43_logic.md R119 to R122) -/

namespace Sys2Proof.Machine

open Sys2Proof Sys2Proof.Safety

theorem resultMasked_getLsbD (r : Word) (w : Width) (i : Nat) :
    (resultMasked r w).getLsbD i = (decide (i < w.bits) && r.getLsbD i) := by
  rw [resultMasked, resultHost, BitVec.getLsbD_setWidth, mask_getLsbD]
  by_cases hi : i < w.bits
  · have h64 : i < 64 := by have := Width.bits_le w; omega
    rw [decide_eq_true h64, Bool.true_and]
  · rw [decide_eq_false hi, Bool.false_and, Bool.and_false]

section LogicMeanings

variable (w : Width) (src dest : Port) (s : State)

theorem exec_and_field :
    exec (.and src dest w.field) s = logicResult (operand src &&& operand dest) w s :=
  withWidth_field w s _

theorem exec_or_field :
    exec (.or src dest w.field) s = logicResult (operand src ||| operand dest) w s :=
  withWidth_field w s _

theorem exec_xor_field :
    exec (.xor src dest w.field) s = logicResult (operand src ^^^ operand dest) w s :=
  withWidth_field w s _

variable {src dest}

/-- A raw result that is bitwise in the 32-bit operands gives a RESULT that is bitwise in the ports
below w and 0 above, with CF and OF 0 (43_logic.md R122). -/
theorem logicResult_bitwise {r : Word} (f : Bool → Bool → Bool)
    (hr : ∀ i, r.getLsbD i = f ((operand src).getLsbD i) ((operand dest).getLsbD i)) :
    ∃ F v, logicResult r w s = .next (succeeded s F v) ∧ F.cf = .zero ∧ F.of = .zero ∧
      ∀ i, v.getLsbD i = (decide (i < w.bits) && f (src.getLsbD i) (dest.getLsbD i)) := by
  refine ⟨_, _, rfl, rfl, rfl, fun i => ?_⟩
  rw [resultMasked_getLsbD]
  by_cases hi : i < w.bits
  · have h32 : i < 32 := Nat.lt_of_lt_of_le hi (Width.bits_le w)
    rw [hr, operand_getLsbD src h32, operand_getLsbD dest h32]
  · rw [decide_eq_false hi, Bool.false_and, Bool.false_and]

theorem logicResult_zero :
    logicResult 0#32 w s = .next (succeeded s ⟨.zero, .one, .one, .zero, .zero⟩ 0#64) := by
  have hflags : logicFlags 0#32 w = ⟨.zero, .one, .one, .zero, .zero⟩ := by cases w <;> decide
  have hresult : resultMasked 0#32 w = 0#64 := by cases w <;> decide
  rw [logicResult, hflags, hresult]
  rfl

end LogicMeanings

end Sys2Proof.Machine

namespace Sys2Proof.Proofs

open Sys2Proof Sys2Proof.Machine Sys2Proof.Safety

/-- Settles O37: the raw results are bitwise, and the raw result of a self-xor is 0. -/
theorem logicFamilyLaws : Obligations.LogicFamilyLaws := by
  refine ⟨fun w src dest s => ⟨?and, ?or, ?xor⟩, fun w dest s => ?self⟩
  case and =>
    rw [exec_and_field]
    exact logicResult_bitwise w s and fun _ => BitVec.getLsbD_and
  case or =>
    rw [exec_or_field]
    exact logicResult_bitwise w s or fun _ => BitVec.getLsbD_or
  case xor =>
    rw [exec_xor_field]
    exact logicResult_bitwise w s xor fun _ => BitVec.getLsbD_xor
  case self =>
    rw [exec_xor_field, BitVec.xor_self]
    exact logicResult_zero w s

end Sys2Proof.Proofs

/-! ### Shifts as products and quotients, and sal as shl (44_shift.md R127, R128) -/

namespace Sys2Proof.Machine

open Sys2Proof Sys2Proof.Safety

/-- What a shift by a non-zero count answers, with OF left without a value (40_units.md R101). -/
theorem shiftBy_value {src dest : Port} {w : Width} {raw : Nat → Word} {v : Port}
    (h : 1 ≤ src.toNat % 32) (carry : Nat → Bool) (s : State)
    (hv : resultMasked (raw (src.toNat % 32)) w = v) :
    ∃ F, shiftBy src dest w raw carry s = .next (succeeded s F v) ∧ F.of = .undef := by
  subst hv
  exact ⟨_, shiftBy_of_count_ne_zero dest w raw carry s (by omega), rfl⟩

/-- `resultMasked_ofNat` for a signed number, which keeps its residue modulo 2^w. -/
theorem resultMasked_ofInt (x : Int) (w : Width) :
    resultMasked (BitVec.ofInt 32 x) w = BitVec.ofInt 64 (x % 2 ^ w.bits) := by
  have hmod : ((resultMasked (BitVec.ofInt 32 x) w).toNat : Int) = x % 2 ^ w.bits := by
    rw [resultMasked_toNat, Int.natCast_emod, BitVec.toNat_ofInt,
      Int.toNat_of_nonneg (Int.emod_nonneg _ (by decide))]
    push_cast
    exact Int.emod_emod_of_dvd _ (pow_dvd_pow 2 (Width.bits_le w))
  rw [← hmod, BitVec.ofInt_natCast, BitVec.ofNat_toNat, BitVec.setWidth_eq]

theorem sx_operand_toInt (p : Port) (w : Width) : (sx (operand p) w).toInt = signedAt w p := by
  rw [sx_eq_signExtend, BitVec.toInt_signExtend_of_le (Width.bits_le w), setWidth_operand, signedAt]

section ShiftValues

variable (dest : Port) (w : Width) (n : Nat)

theorem resultMasked_shiftLeft :
    resultMasked (operand dest <<< n) w =
      BitVec.ofNat 64 (unsignedAt w dest * 2 ^ n % 2 ^ w.bits) := by
  have hraw : operand dest <<< n = BitVec.ofNat 32 ((operand dest).toNat * 2 ^ n) :=
    BitVec.eq_of_toNat_eq (by rw [BitVec.toNat_shiftLeft, Nat.shiftLeft_eq, BitVec.toNat_ofNat])
  rw [hraw, resultMasked_ofNat, ← operand_toNat_mod, Nat.mod_mul_mod]

theorem resultMasked_ushiftRight :
    resultMasked (mask (operand dest) w >>> n) w = BitVec.ofNat 64 (unsignedAt w dest / 2 ^ n) := by
  have hraw : mask (operand dest) w >>> n = BitVec.ofNat 32 (unsignedAt w dest / 2 ^ n) := by
    rw [← Nat.shiftRight_eq_div_pow, unsignedAt, ← mask_operand_toNat, ← BitVec.toNat_ushiftRight,
      BitVec.ofNat_toNat, BitVec.setWidth_eq]
  have hlt : unsignedAt w dest / 2 ^ n < 2 ^ w.bits :=
    (Nat.div_le_self _ _).trans_lt (unsignedAt_lt w dest)
  rw [hraw, resultMasked_ofNat, Nat.mod_eq_of_lt hlt]

/-- The arithmetic shift rounds toward minus infinity (44_shift.md R128). -/
theorem resultMasked_sshiftRight :
    resultMasked ((sx (operand dest) w).sshiftRight n) w =
      BitVec.ofInt 64 (signedAt w dest / 2 ^ n % 2 ^ w.bits) := by
  have hraw : ((sx (operand dest) w).sshiftRight n).toInt = signedAt w dest / 2 ^ n := by
    rw [BitVec.toInt_sshiftRight, sx_operand_toInt, Int.shiftRight_eq_div_pow]
    push_cast
    rfl
  rw [← hraw, ← resultMasked_ofInt, BitVec.ofInt_toInt]

end ShiftValues

/-- With RSV 0 a control word is the number 32 · WIDTH + OP (30_encoding.md R59, R63). -/
theorem controlWord_toNat (width : BitVec 6) (op : BitVec 5) :
    (controlWord width op).toNat = width.toNat * 32 + op.toNat := by
  have hwidth := width.isLt
  have hop := op.isLt
  rw [controlWord, BitVec.toNat_or, BitVec.toNat_shiftLeft, BitVec.toNat_setWidth_of_le (by decide),
    BitVec.toNat_setWidth_of_le (by decide), Nat.mod_eq_of_lt (by rw [Nat.shiftLeft_eq]; omega),
    ← Nat.shiftLeft_add_eq_or_of_lt hop, Nat.shiftLeft_eq]

/-- sal is shl at every WIDTH field (44_shift.md R127). -/
theorem exec_sal (src dest : Port) (width : BitVec 6) (s : State) :
    exec (.sal src dest width) s = exec (.shl src dest width) s := rfl

/-- The example of 44_shift.md R127, evaluated: 0xC0 shifted left once is 0x180, and bit 7 of 0xC0 leaves. -/
theorem exec_sal_example (s : State) :
    exec (.sal 0x1#64 0xC0#64 8#6) s =
      .next (succeeded s ⟨.one, .zero, .zero, .one, .undef⟩ 0x80#64) := rfl

end Sys2Proof.Machine

namespace Sys2Proof.Proofs

open Sys2Proof Sys2Proof.Machine Sys2Proof.Safety

/-- Settles O39, from the value each raw result leaves in its low w bits. -/
theorem shiftValuesAndUndefinedOverflow : Obligations.ShiftValuesAndUndefinedOverflow := by
  intro w src dest s n hn
  rw [exec_shl_field, exec_sal_field, exec_shr_field, exec_sar_field, shiftLeft_eq]
  exact ⟨shiftBy_value hn _ s (resultMasked_shiftLeft dest w n),
    shiftBy_value hn _ s (resultMasked_shiftLeft dest w n),
    shiftBy_value hn _ s (resultMasked_ushiftRight dest w n),
    shiftBy_value hn _ s (resultMasked_sshiftRight dest w n)⟩

/-- Settles O41: one meaning under two codes; the example is evaluated. -/
theorem salIsShl : Obligations.SalIsShl := by
  refine fun src dest width s => ⟨exec_sal src dest width s, ?code, exec_sal_example s⟩
  case code =>
    have hcw : (controlWord width 16#5).toNat = width.toNat * 32 + 16 := controlWord_toNat width 16#5
    rw [← hcw, BitVec.ofNat_toNat, BitVec.setWidth_eq]
    rfl

end Sys2Proof.Proofs

/-! ### The faults of a request and their order (60_exceptions.md R129 to R140) -/

namespace Sys2Proof.Machine

open Sys2Proof Sys2Proof.Safety
open Sys2Proof.Laws.EncodedFields (opcode fields)

/-! How a fault shows in the next state (R129, R140). -/

/-- A request that shows a fault changed nothing but FAULTS and the answer (R129). -/
theorem Ends.eq_faulted {s t : State} {f : Fault} (h : Ends s (.next t))
    (hf : t.response = .fault f) : t = faulted s f := by
  cases h with
  | result F result => cases hf
  | fault g =>
    cases hf
    rfl

theorem issue_eq_faulted {r : Request} {s t : State} {f : Fault} (h : issue r s = .next t)
    (hf : t.response = .fault f) : t = faulted s f :=
  (h ▸ issue_ends r (impl_of_issue_next h)).eq_faulted hf

theorem exec_eq_faulted {i : Instr} {s t : State} {f : Fault} (h : exec i s = .next t)
    (hf : t.response = .fault f) : exec i s = .next (faulted s f) :=
  h.trans (congrArg _ ((h ▸ exec_ends i s).eq_faulted hf))

theorem Fault.code_ne_zero (f : Fault) : f.code ≠ 0#3 := by cases f <;> decide

/-! The conditions under which an operation faults (R133 to R136). -/

/-- The operation divides `dest` by `src`. -/
def Divides (src dest : Port) (i : Instr) : Prop :=
  ∃ width, i = .div src dest width ∨ i = .idiv src dest width ∨
    i = .mod src dest width ∨ i = .imod src dest width

/-- The operation divides `dest` by `src` as two's-complement numbers. -/
def DividesSigned (src dest : Port) (i : Instr) : Prop :=
  ∃ width, i = .idiv src dest width ∨ i = .imod src dest width

/-- The condition of each fault that an operation can raise, without their order. -/
inductive FaultCause (i : Instr) (s : State) : Fault → Prop where
  | invalidWidth (hwidth : i.wellFormed = false) : FaultCause i s .invalidWidth
  | undefinedFlagRead (hi : ReadsCarry i) (hcf : s.flags.cf = .undef) :
      FaultCause i s .undefinedFlagRead
  | divideByZero {dest : Port} (hi : Divides 0#64 dest i) : FaultCause i s .divideByZero
  | divideOverflow {src dest : Port} (hi : DividesSigned src dest i) (hpair : OverflowPair src dest) :
      FaultCause i s .divideOverflow

@[simp] theorem legalWidth_field (w : Width) : legalWidth w.field = true := by cases w <;> rfl

theorem exists_width_of_legal {width : BitVec 6} (h : legalWidth width = true) :
    ∃ w : Width, width = w.field :=
  (legalWidth_cases width).resolve_left (by simp [h])

theorem legalWidth_iff (width : BitVec 6) :
    legalWidth width = true ↔ width.toNat ∈ [8, 16, 32] := by
  simp [legalWidth, ← BitVec.toNat_inj, or_assoc]

/-! Each condition raises its fault where no earlier check of R138 applies. -/

theorem withSignedQuotient_pair {src dest : Port} (h : OverflowPair src dest) (s : State)
    (body : Host.Outcome State Fault Refusal) :
    withSignedQuotient src dest s body = raiseFault .divideOverflow s := if_pos h

/-- The divisor of the overflow pair passes the divisor check. -/
theorem ne_zero_of_overflowPair {src dest : Port} (h : OverflowPair src dest) : src ≠ 0#64 := by
  rw [h.2]
  decide

section Raised

variable {i : Instr} {s : State} (hwidth : i.wellFormed = true)

include hwidth

theorem exec_of_undefined_carry (hi : ReadsCarry i) (hcf : s.flags.cf = .undef) :
    exec i s = .next (faulted s .undefinedFlagRead) := by
  obtain ⟨src, dest, width, rfl | rfl⟩ := hi
  all_goals
    obtain ⟨w, rfl⟩ := exists_width_of_legal hwidth
    exact (withWidth_field w s _).trans (withCarry_undef hcf _)

theorem exec_of_zero_divisor {dest : Port} (hi : Divides 0#64 dest i) :
    exec i s = .next (faulted s .divideByZero) := by
  obtain ⟨width, rfl | rfl | rfl | rfl⟩ := hi
  case inl | inr.inl =>
    obtain ⟨w, rfl⟩ := exists_width_of_legal hwidth
    exact (withWidth_field w s _).trans (withDivisor_zero s _)
  case inr.inr.inl | inr.inr.inr => rfl

theorem exec_of_overflow_pair {src dest : Port} (hi : DividesSigned src dest i)
    (hpair : OverflowPair src dest) : exec i s = .next (faulted s .divideOverflow) := by
  have hchecks : ∀ body, withDivisor src s (withSignedQuotient src dest s body) =
      .next (faulted s .divideOverflow) := fun body =>
    (withDivisor_ne (ne_zero_of_overflowPair hpair) s _).trans (withSignedQuotient_pair hpair s body)
  obtain ⟨width, rfl | rfl⟩ := hi
  · obtain ⟨w, rfl⟩ := exists_width_of_legal hwidth
    exact (exec_idiv_field w src dest s).trans (hchecks _)
  · exact hchecks _

end Raised

/-! No operation raises a fault without its condition: each check is followed through. -/

/-- A fault that ends `o` has its condition in `i` and `s`. -/
def OnlyCausedFaults (i : Instr) (s : State) (o : Host.Outcome State Fault Refusal) : Prop :=
  ∀ f, o = .next (faulted s f) → FaultCause i s f

section OnlyCausedFaults

variable {i : Instr} {s : State}

theorem onlyCausedFaults_complete (F : Flags) (result : Port) :
    OnlyCausedFaults i s (complete F result s) :=
  fun f h => absurd h (complete_ne_faulted F result s f)

theorem onlyCausedFaults_raiseFault {f : Fault} (h : FaultCause i s f) :
    OnlyCausedFaults i s (raiseFault f s) := fun g hg => by
  by_cases hfg : f = g
  · exact hfg ▸ h
  · exact absurd hg (raiseFault_ne_faulted hfg s)

theorem onlyCausedFaults_withWidth {width : BitVec 6} (hi : i.wellFormed = legalWidth width)
    {body : Width → Host.Outcome State Fault Refusal} (h : ∀ w, OnlyCausedFaults i s (body w)) :
    OnlyCausedFaults i s (withWidth width s body) := by
  obtain hwidth | ⟨w, rfl⟩ := legalWidth_cases width
  · rw [withWidth_illegal hwidth]
    exact onlyCausedFaults_raiseFault (.invalidWidth (hi.trans hwidth))
  · rw [withWidth_field]
    exact h w

theorem onlyCausedFaults_withCarry (hi : ReadsCarry i)
    {body : Bool → Host.Outcome State Fault Refusal} (h : ∀ c, OnlyCausedFaults i s (body c)) :
    OnlyCausedFaults i s (withCarry s body) := by
  unfold withCarry
  split
  · exact h false
  · exact h true
  · next hcf => exact onlyCausedFaults_raiseFault (.undefinedFlagRead hi hcf)

theorem onlyCausedFaults_withDivisor {src dest : Port} (hi : Divides src dest i)
    {body : Host.Outcome State Fault Refusal} (h : OnlyCausedFaults i s body) :
    OnlyCausedFaults i s (withDivisor src s body) := by
  unfold withDivisor
  split
  · next hsrc => exact onlyCausedFaults_raiseFault (.divideByZero (hsrc ▸ hi))
  · exact h

theorem onlyCausedFaults_withSignedQuotient {src dest : Port} (hi : DividesSigned src dest i)
    {body : Host.Outcome State Fault Refusal} (h : OnlyCausedFaults i s body) :
    OnlyCausedFaults i s (withSignedQuotient src dest s body) := by
  unfold withSignedQuotient
  split
  · next hpair => exact onlyCausedFaults_raiseFault (.divideOverflow hi hpair)
  · exact h

theorem onlyCausedFaults_shiftBy (src dest : Port) (w : Width) (raw : Nat → Word)
    (carry : Nat → Bool) : OnlyCausedFaults i s (shiftBy src dest w raw carry s) := by
  unfold shiftBy
  dsimp only
  split <;> exact onlyCausedFaults_complete _ _

theorem onlyCausedFaults_shiftLeft (src dest : Port) (w : Width) :
    OnlyCausedFaults i s (shiftLeft src dest w s) := by
  unfold shiftLeft
  exact onlyCausedFaults_shiftBy _ _ _ _ _

end OnlyCausedFaults

theorem exec_onlyCausedFaults (i : Instr) (s : State) : OnlyCausedFaults i s (exec i s) := by
  cases i with
  | add | sub | mul | imul | and | or | xor =>
    exact onlyCausedFaults_withWidth rfl fun _ => onlyCausedFaults_complete _ _
  | adc =>
    exact onlyCausedFaults_withWidth rfl fun _ =>
      onlyCausedFaults_withCarry ⟨_, _, _, .inl rfl⟩ fun _ => onlyCausedFaults_complete _ _
  | sbb =>
    refine onlyCausedFaults_withWidth rfl fun _ =>
      onlyCausedFaults_withCarry ⟨_, _, _, .inr rfl⟩ fun c => ?_
    cases c <;> exact onlyCausedFaults_complete _ _
  | div =>
    exact onlyCausedFaults_withWidth rfl fun _ =>
      onlyCausedFaults_withDivisor ⟨_, .inl rfl⟩ (onlyCausedFaults_complete _ _)
  | idiv =>
    exact onlyCausedFaults_withWidth rfl fun _ =>
      onlyCausedFaults_withDivisor ⟨_, .inr (.inl rfl)⟩
        (onlyCausedFaults_withSignedQuotient ⟨_, .inl rfl⟩ (onlyCausedFaults_complete _ _))
  | mod =>
    exact onlyCausedFaults_withDivisor ⟨_, .inr (.inr (.inl rfl))⟩ (onlyCausedFaults_complete _ _)
  | imod =>
    exact onlyCausedFaults_withDivisor ⟨_, .inr (.inr (.inr rfl))⟩
      (onlyCausedFaults_withSignedQuotient ⟨_, .inr rfl⟩ (onlyCausedFaults_complete _ _))
  | shr | sar =>
    exact onlyCausedFaults_withWidth rfl fun _ => onlyCausedFaults_shiftBy _ _ _ _ _
  | shl | sal =>
    exact onlyCausedFaults_withWidth rfl fun _ => onlyCausedFaults_shiftLeft _ _ _

/-- A fault that an operation shows has its condition. -/
theorem exec_faultCause {i : Instr} {s t : State} {f : Fault} (h : exec i s = .next t)
    (hf : t.response = .fault f) : FaultCause i s f :=
  exec_onlyCausedFaults i s f (exec_eq_faulted h hf)

/-- An operation without a condition of a fault succeeds. -/
theorem exec_succeeds {i : Instr} {s : State} (h : ∀ f, ¬ FaultCause i s f) :
    ∃ (F : Flags) (result : Port), exec i s = .next (succeeded s F result) := by
  have hends := exec_ends i s
  generalize ho : exec i s = o at hends
  cases hends with
  | result F result => exact ⟨F, result, rfl⟩
  | fault f => exact absurd (exec_onlyCausedFaults i s f ho) (h f)

/-! The conditions read off the fields of the control word (30_encoding.md R60 to R66). -/

theorem readsCarry_iff {i : Instr} :
    ReadsCarry i ↔ (opcode i).toNat = 1 ∨ (opcode i).toNat = 3 := by
  cases i <;> simp [ReadsCarry, opcode]

theorem divides_iff {src dest : Port} {i : Instr} :
    Divides src dest i ↔ 6 ≤ (opcode i).toNat ∧ (opcode i).toNat ≤ 9 ∧
      ∃ width, fields i = (src, dest, width) := by
  cases i <;> simp [Divides, opcode, fields]

theorem dividesSigned_iff {src dest : Port} {i : Instr} :
    DividesSigned src dest i ↔ ((opcode i).toNat = 7 ∨ (opcode i).toNat = 9) ∧
      ∃ width, fields i = (src, dest, width) := by
  cases i <;> simp [DividesSigned, opcode, fields]

theorem wellFormed_eq_false_iff {i : Instr} {src dest : Port} {width : BitVec 6}
    (hf : fields i = (src, dest, width)) :
    i.wellFormed = false ↔
      (opcode i).toNat ≠ 8 ∧ (opcode i).toNat ≠ 9 ∧ legalWidth width = false := by
  cases i <;> cases hf <;> simp [Instr.wellFormed, opcode]

theorem legalWidth_eq_false_iff (width : BitVec 6) :
    legalWidth width = false ↔ width.toNat ≠ 8 ∧ width.toNat ≠ 16 ∧ width.toNat ≠ 32 := by
  rw [← Bool.not_eq_true, legalWidth_iff]
  simp

theorem cwWidth_toNat (cw : BitVec 16) : (cwWidth cw).toNat = cw.toNat / 32 % 64 := by
  simp [cwWidth, Nat.shiftRight_eq_div_pow]

theorem cwRsv_toNat (cw : BitVec 16) : (cwRsv cw).toNat = cw.toNat / 2048 := by
  rw [cwRsv, BitVec.extractLsb'_toNat, Nat.shiftRight_eq_div_pow]
  exact Nat.mod_eq_of_lt (by omega)

theorem cwRsv_eq_zero_iff (cw : BitVec 16) : cwRsv cw = 0#5 ↔ cw.toNat / 2048 = 0 := by
  rw [← cwRsv_toNat]
  exact BitVec.toNat_inj.symm

/-- The decoder accepts every code up to 16 without reserved bits (30_encoding.md R63, R72). -/
theorem exists_decode_ok {r : Request} (hrsv : cwRsv r.cw = 0#5) (hop : (cwOp r.cw).toNat ≤ 16) :
    ∃ i, decode r = .ok i := by
  rw [decode, if_pos hrsv]
  unfold decodeOp
  generalize (cwOp r.cw).toNat = op at hop
  interval_cases op <;> exact ⟨_, rfl⟩

/-- The checks of an operation in the order of R138, on the fields of its control word. -/
theorem exec_firstFault {i : Instr} {src dest : Port} {width : BitVec 6}
    (hf : fields i = (src, dest, width)) (s : State) :
    let op := (opcode i).toNat
    if op ≠ 8 ∧ op ≠ 9 ∧ width.toNat ≠ 8 ∧ width.toNat ≠ 16 ∧ width.toNat ≠ 32 then
      exec i s = .next (faulted s .invalidWidth)
    else if (op = 1 ∨ op = 3) ∧ s.flags.cf = .undef then
      exec i s = .next (faulted s .undefinedFlagRead)
    else if 6 ≤ op ∧ op ≤ 9 ∧ src = 0#64 then exec i s = .next (faulted s .divideByZero)
    else if (op = 7 ∨ op = 9) ∧ dest = 0x8000000000000000#64 ∧ src = 0xFFFFFFFFFFFFFFFF#64 then
      exec i s = .next (faulted s .divideOverflow)
    else ∃ (F : Flags) (result : Port), exec i s = .next (succeeded s F result) := by
  intro op
  have hillFormed := wellFormed_eq_false_iff hf
  rw [legalWidth_eq_false_iff] at hillFormed
  split
  case isTrue h => exact exec_of_not_wellFormed (hillFormed.mpr h) s
  case isFalse hlegal =>
  have hwidth : i.wellFormed = true := Bool.eq_true_of_not_eq_false (mt hillFormed.mp hlegal)
  split
  case isTrue h => exact exec_of_undefined_carry hwidth (readsCarry_iff.mpr h.1) h.2
  case isFalse hcarry =>
  split
  case isTrue h =>
    obtain ⟨hge, hle, rfl⟩ := h
    exact exec_of_zero_divisor hwidth (divides_iff.mpr ⟨hge, hle, width, hf⟩)
  case isFalse hzero =>
  split
  case isTrue h =>
    exact exec_of_overflow_pair hwidth (dividesSigned_iff.mpr ⟨h.1, width, hf⟩) h.2
  case isFalse hoverflow =>
  refine exec_succeeds fun f hcause => ?_
  cases hcause with
  | invalidWidth h => exact hlegal (hillFormed.mp h)
  | undefinedFlagRead hi hcf => exact hcarry ⟨readsCarry_iff.mp hi, hcf⟩
  | divideByZero hi =>
    obtain ⟨hge, hle, width', hf'⟩ := divides_iff.mp hi
    cases hf.symm.trans hf'
    exact hzero ⟨hge, hle, rfl⟩
  | divideOverflow hi hpair =>
    obtain ⟨hop, width', hf'⟩ := dividesSigned_iff.mp hi
    cases hf.symm.trans hf'
    exact hoverflow ⟨hop, hpair⟩

/-! What a step and a run leave of FAULTS and of CF (R134, R140). -/

theorem Ends.faults_append {s t : State} (h : Ends s (.next t)) :
    ∃ new, t.faults = s.faults ++ new ∧ new.length ≤ 1 := by
  cases h with
  | result F result => exact ⟨[], (List.append_nil _).symm, by decide⟩
  | fault f => exact ⟨[f], rfl, le_rfl⟩

theorem step_faults_append {s t : State} (h : step s = .next t) :
    ∃ new, t.faults = s.faults ++ new ∧ new.length ≤ 1 := by
  obtain ⟨-, hs⟩ | ⟨w, rest, -, hs⟩ | ⟨r, rest, -, hs⟩ := step_cases s
  · cases hs.symm.trans h
    exact ⟨[], (List.append_nil _).symm, by decide⟩
  · cases hs.symm.trans h
    exact ⟨[], (List.append_nil _).symm, by decide⟩
  · have hissue := hs.symm.trans h
    exact (hissue ▸ issue_ends r (impl_of_issue_next hissue)).faults_append

theorem step_keeps_recorded_fault {s t : State} (hs : ¬ NoFault s) (h : step s = .next t) :
    ¬ NoFault t := by
  obtain ⟨new, hnew, -⟩ := step_faults_append h
  exact fun ht => hs (List.append_eq_nil_iff.mp (hnew.symm.trans ht)).1

/-- What every step of a machine keeps, a run of it keeps. -/
theorem run_keeps {M : Host.Core} {P : M.State → Prop}
    (hstep : ∀ s t, P s → M.step s = .next t → P t) (k : Nat) :
    ∀ s t, P s → M.run k s = .next t → P t := by
  induction k with
  | zero =>
    rintro s t hs ⟨⟩
    exact hs
  | succ k ih =>
    intro s t hs h
    unfold Host.Core.run at h
    split at h
    · next u hu => exact ih u t (hstep s u hs hu) h
    · cases h
    · cases h

end Sys2Proof.Machine

namespace Sys2Proof.Proofs

open Sys2Proof Sys2Proof.Machine Sys2Proof.Safety Sys2Proof.Laws

/-- Settles O12: the decoder makes the first two checks, and the operation it reads makes the others. -/
theorem firstApplicableFaultIsReported : Obligations.FirstApplicableFaultIsReported := by
  intro r s himpl op width
  split
  case isTrue h =>
    exact issue_of_decode_error himpl
      (decode_eq_reservedControlBits (mt (cwRsv_eq_zero_iff r.cw).mp h))
  case isFalse h =>
  have hrsv : cwRsv r.cw = 0#5 := (cwRsv_eq_zero_iff r.cw).mpr (not_not.mp h)
  split
  case isTrue h =>
    exact issue_of_decode_error himpl (decode_eq_illegalOp hrsv (cwOp_toNat r.cw ▸ h))
  case isFalse h =>
  obtain ⟨i, hd⟩ := exists_decode_ok hrsv (cwOp_toNat r.cw ▸ not_lt.mp h)
  obtain ⟨-, hcode, hfields⟩ := decode_ok hd
  have hexec := exec_firstFault hfields s
  rw [← hcode, cwOp_toNat, cwWidth_toNat] at hexec
  rw [issue_of_decode himpl hd]
  exact hexec

/-- Settles O13, from the one way a request shows a fault. -/
theorem faultHasNoOtherEffect : Obligations.FaultHasNoOtherEffect := by
  intro r s t f h hf
  obtain rfl := issue_eq_faulted h hf
  exact ⟨rfl, ⟨f.code, rfl, f.code_ne_zero⟩, rfl⟩

/-- Settles O15, from the two checks of the decoder. -/
theorem badControlWordsFault : Obligations.BadControlWordsFault :=
  ⟨fun _ _ himpl hrsv => issue_of_decode_error himpl (decode_eq_reservedControlBits hrsv),
    fun _ _ himpl hrsv hop => issue_of_decode_error himpl (decode_eq_illegalOp hrsv hop)⟩

/-- Settles O16; mod and imod are well formed at every WIDTH. -/
theorem invalidWidthExactlyWhenIllFormed : Obligations.InvalidWidthExactlyWhenIllFormed := by
  refine ⟨legalWidth_iff, fun i s => ⟨fun h => exec_of_not_wellFormed h s, fun t h hf => ?_⟩⟩
  cases exec_faultCause h hf with
  | invalidWidth hwidth =>
    refine ⟨hwidth, fun src dest width => ⟨?_, ?_⟩⟩
    · rintro rfl
      cases hwidth
    · rintro rfl
      cases hwidth

/-- Settles O17, from the condition of UndefinedFlagRead and what a step keeps defined. -/
theorem undefinedCarryFaults : Obligations.UndefinedCarryFaults := by
  refine ⟨fun w src dest s hcf => ⟨?adc, ?sbb⟩, fun i s t h hf => ?cause, rfl,
    fun s t h => (step_keepsDefined h).1.1⟩
  case adc => exact exec_of_undefined_carry (legalWidth_field w) ⟨_, _, _, .inl rfl⟩ hcf
  case sbb => exact exec_of_undefined_carry (legalWidth_field w) ⟨_, _, _, .inr rfl⟩ hcf
  case cause =>
    cases exec_faultCause h hf with
    | undefinedFlagRead hi hcf => exact ⟨hcf, hi⟩

/-- Settles O18, from the condition of DivideByZero. -/
theorem zeroDivisorFaults : Obligations.ZeroDivisorFaults := by
  refine ⟨fun w dest s => ⟨?div, ?idiv⟩, fun width dest s => ⟨?mod, ?imod⟩, fun i s t h hf => ?cause⟩
  case div => exact exec_of_zero_divisor (legalWidth_field w) ⟨_, .inl rfl⟩
  case idiv => exact exec_of_zero_divisor (legalWidth_field w) ⟨_, .inr (.inl rfl)⟩
  case mod => exact exec_of_zero_divisor rfl ⟨width, .inr (.inr (.inl rfl))⟩
  case imod => exact exec_of_zero_divisor rfl ⟨width, .inr (.inr (.inr rfl))⟩
  case cause =>
    cases exec_faultCause h hf with
    | divideByZero hi => exact ⟨_, hi⟩

/-- Settles O19: the pair raises the fault, and off the pair the divisions answer their values. -/
theorem divideOverflowOnOnePairOnly : Obligations.DivideOverflowOnOnePairOnly := by
  refine ⟨fun w width src dest s hpair => ⟨?idiv, ?imod⟩, fun w width src dest s hsrc => ?values,
    fun i s t h hf => ?cause⟩
  case idiv => exact exec_of_overflow_pair (legalWidth_field w) ⟨_, .inl rfl⟩ hpair
  case imod => exact exec_of_overflow_pair rfl ⟨width, .inr rfl⟩ hpair
  case values =>
    exact ⟨⟨_, exec_div_of_ne s hsrc w⟩, ⟨_, exec_mod_of_ne s hsrc width⟩, fun hpair =>
      ⟨⟨_, exec_idiv_of_ne s hsrc hpair w⟩, ⟨_, exec_imod_of_ne s hsrc hpair width⟩⟩⟩
  case cause =>
    cases exec_faultCause h hf with
    | divideOverflow hi hpair =>
      obtain ⟨width, hi⟩ := hi
      exact ⟨_, _, width, hpair, hi⟩

/-- Settles O20: a recorded fault is kept by every step, hence by every run. -/
theorem faultsAreNeverRemoved : Obligations.FaultsAreNeverRemoved := by
  refine ⟨fun r s t f h hf => ?_, fun s t h => step_faults_append h, fun k s t hs h hend => ?_⟩
  · rw [issue_eq_faulted h hf]
    rfl
  · have hrun : ¬ NoFault t := run_keeps (M := core) (P := fun u => ¬ NoFault u)
      (fun _ _ => step_keeps_recorded_fault) k s t hs h
    exact hrun hend.2

end Sys2Proof.Proofs

/-! ### Reset, termination and the host's moves (70_reset_and_hazards.md R148 to R160) -/

namespace Sys2Proof.Machine

open Sys2Proof

/-- The end of a request leaves ALU_IMPL and the host's further moves alone. -/
theorem Ends.keeps_impl_pending {s t : State} (h : Ends s (.next t)) :
    t.impl = s.impl ∧ t.pending = s.pending := by
  cases h with
  | result F result => exact ⟨rfl, rfl⟩
  | fault f => exact ⟨rfl, rfl⟩

/-- RESULT or FAULT is shown (R160). -/
theorem Ends.response_ne_none {s t : State} (h : Ends s (.next t)) : t.response ≠ .none := by
  cases h with
  | result F result => exact Response.noConfusion
  | fault f => exact Response.noConfusion

theorem step_impl_pending {s t : State} (h : step s = .next t) :
    t.impl = s.impl ∧ t.pending = s.pending.tail := by
  obtain ⟨hp, hs⟩ | ⟨w, rest, hp, hs⟩ | ⟨r, rest, hp, hs⟩ := step_cases s
  · cases hs.symm.trans h
    exact ⟨rfl, by rw [hp, List.tail_nil]⟩
  · cases hs.symm.trans h
    exact ⟨rfl, by rw [hp]; rfl⟩
  · have hissue := hs.symm.trans h
    rw [hp]
    exact (hissue ▸ issue_ends r (impl_of_issue_next hissue)).keeps_impl_pending

theorem exists_step_next {s : State} (himpl : s.impl = .localImpl) : ∃ t, step s = .next t := by
  obtain hnext | ⟨href, -, -⟩ := step_next_or_refused s
  · exact hnext
  · cases himpl.symm.trans href

theorem run_succ_of_step_next {M : Host.Core} {k : Nat} {s u : M.State} (h : M.step s = .next u) :
    M.run (k + 1) s = M.run k u := by
  simp only [Host.Core.run, h]

/-- A run under the local implementation goes on for any number of steps and takes one move in each. -/
theorem exists_run_next (k : Nat) {s : State} (himpl : s.impl = .localImpl) :
    ∃ t : State, core.run k s = .next t ∧ t.pending = s.pending.drop k := by
  induction k generalizing s with
  | zero => exact ⟨s, rfl, rfl⟩
  | succ k ih =>
    obtain ⟨u, hu⟩ := exists_step_next himpl
    obtain ⟨huimpl, hupending⟩ := step_impl_pending hu
    obtain ⟨t, ht, htpending⟩ := ih (huimpl.trans himpl)
    exact ⟨t, (run_succ_of_step_next (M := core) hu).trans ht, by
      rw [htpending, hupending, List.drop_tail]⟩

end Sys2Proof.Machine

namespace Sys2Proof.Proofs

open Sys2Proof Sys2Proof.Machine Sys2Proof.Safety

/-- Settles O10: a request ends with an answer, and a run takes one move in each step. -/
theorem everyRequestTerminates : Obligations.EveryRequestTerminates := by
  refine ⟨fun r s himpl => ?_, fun s himpl => ?_⟩
  · have hends := issue_ends r himpl
    obtain ⟨t, ht⟩ := hends.exists_next
    rw [ht] at hends
    exact ⟨t, ht, hends.keeps_impl_pending.2, hends.response_ne_none⟩
  · obtain ⟨t, ht, hpending⟩ := exists_run_next s.pending.length himpl
    exact ⟨t, ht, hpending.trans List.drop_length⟩

/-- Settles O11, by the host's move. -/
theorem stepKeepsImplementation : Obligations.StepKeepsImplementation :=
  fun _ _ => step_impl_pending

/-- Settles O8, field by field of the reset state. -/
theorem resetLeavesFlagsUndefined : Obligations.ResetLeavesFlagsUndefined :=
  ⟨rfl, rfl, rfl, rfl, rfl, State.reset_faults, fun _ => List.not_mem_nil⟩

end Sys2Proof.Proofs

namespace Sys2Proof.Machine

open Sys2Proof Sys2Proof.Safety

/-- With all of PF, ZF and SF undefined no flag describes a result. -/
theorem flagsCoherent_of_undef {F : Flags} (hpf : F.pf = .undef) (hzf : F.zf = .undef)
    (hsf : F.sf = .undef) : FlagsCoherent F := by
  refine ⟨fun hone => ?_, iff_of_true hpf hzf, iff_of_true hzf hsf⟩
  cases hzf.symm.trans hone

end Sys2Proof.Machine

namespace Sys2Proof.Proofs

open Sys2Proof Sys2Proof.Machine Sys2Proof.Safety

/-- Settles O46: no move, no defined flag and no answer. -/
theorem resetMeetsFlagCoherence : Obligations.ResetMeetsFlagCoherence := by
  refine ⟨fun m hm => ?moves, flagsCoherent_of_undef rfl rfl rfl, fun f hf => ?answer⟩
  case moves => exact absurd hm List.not_mem_nil
  case answer => cases hf

end Sys2Proof.Proofs
